-- ==== Sys2Proof/Word.lean ====
section
/-!
DEFINITION. The words of the block: bytes and frames (00_scope.md R6, R7).
-/

namespace Sys2Proof

/-- A byte: an unsigned 8-bit integer, bit 0 the least significant (R6). -/
abbrev Byte := BitVec 8

/-- A frame: a byte sequence whose first element is the first byte handed to the transport (R7). -/
abbrev Frame := List Byte

end Sys2Proof
end

