-- ==== Sys2Proof/Config.lean ====
section
/-!
DEFINITION. The implementation parameters of 00_scope.md R5. `PAYLOAD_ORDER` is the one OPEN
parameter: its value is held in State (field `payloadOrder`), so that every statement over states
holds for both orders (notes/assumptions/1.md).
-/

namespace Sys2Proof

/-- The values of the open parameter `PAYLOAD_ORDER` (R5, R50). -/
inductive PayloadOrder where
  | preserve
  | reverse
deriving DecidableEq, Repr

/-- The default of `PAYLOAD_ORDER` (R5). -/
def Config.defaultPayloadOrder : PayloadOrder := .preserve

/-- `MAX_PAYLOAD` (R5). -/
abbrev Config.maxPayload : Nat := 32

/-- `MIN_PAYLOAD` (R5). -/
abbrev Config.minPayload : Nat := 1

/-- `PAD_BYTE` (R5). -/
def Config.padByte : Byte := 0x00

/-- `ADDR_BITS` (R5): a register address is a value in 0..31. -/
abbrev Config.addrBits : Nat := 5

/-- `ADDR_REG_BYTES` (R5): the width of RX_ADDR_P0, RX_ADDR_P1 and TX_ADDR. -/
abbrev Config.addrRegBytes : Nat := 5

/-- The pipes W_ACK_PAYLOAD may name are 0 to 5 (R105, R118). -/
abbrev Config.maxPipe : Nat := 5

end Sys2Proof
end

