-- ==== Sys2Proof/Machine/FieldTypes.lean ====
section
/-!
DEFINITION. The five enumerated field types of the Field Model (40_field_model.md R77 to R83).
Each is a closed set of enumerants; their codes are in Machine/Fields.lean.
-/

namespace Sys2Proof

/-- Config.crco (R79). -/
inductive CrcEncodingScheme where
  | oneByte
  | twoBytes
deriving DecidableEq, Repr

/-- SetupAw.aw (R80). Code 0b00 is no enumerant. -/
inductive AddressWidth where
  | bytes3
  | bytes4
  | bytes5
deriving DecidableEq, Repr

/-- SetupRetr.ard (R81): `usD` is a delay of D microseconds. -/
inductive AutoRetransmitDelay where
  | us250
  | us500
  | us750
  | us1000
  | us1250
  | us1500
  | us1750
  | us2000
  | us2250
  | us2500
  | us2750
  | us3000
  | us3250
  | us3500
  | us3750
  | us4000
deriving DecidableEq, Repr

/-- RfSetup.rf_dr (R82): RF_DR_LOW, PLL_LOCK and RF_DR_HIGH taken as one selector. -/
inductive DataRate where
  | mbps1
  | mbps2
  | kbps250
deriving DecidableEq, Repr

/-- RfSetup.rf_pwr (R83). -/
inductive RfPower where
  | neg18Dbm
  | neg12Dbm
  | neg6Dbm
  | dbm0
deriving DecidableEq, Repr

/-- The names of the Field types, recorded by `InvalidCode` (60_exceptions.md R114). -/
inductive FieldType where
  | crcEncodingScheme
  | addressWidth
  | autoRetransmitDelay
  | dataRate
  | rfPower
deriving DecidableEq, Repr

end Sys2Proof
end

