-- ==== Sys2Proof/Machine/RegisterTypes.lean ====
section
/-!
DEFINITION. The data of the Register Model (10_state.md R19 to R38): the 26 register types, the
slots a caller can name, and register values. A register value has one value per non-reserved slot,
each of its slot's type (R22); reserved slots have no name and no place in a value (R21). Everything
is typed by the register type it belongs to, so a value outside its slot's type cannot be built
(92_eei_decisions.md D32).
-/

namespace Sys2Proof

/-- The 26 register types of the map (10_state.md section 3). -/
inductive RegType where
  | config
  | enAa
  | enRxaddr
  | setupAw
  | setupRetr
  | rfCh
  | rfSetup
  | status
  | observeTx
  | rpd
  | rxAddrP0
  | rxAddrP1
  | rxAddrP2
  | rxAddrP3
  | rxAddrP4
  | rxAddrP5
  | txAddr
  | rxPwP0
  | rxPwP1
  | rxPwP2
  | rxPwP3
  | rxPwP4
  | rxPwP5
  | fifoStatus
  | dynpd
  | feature
deriving DecidableEq, Repr

/-- A value of type Config (R23). -/
structure ConfigReg where
  maskRxDr : Bool
  maskTxDs : Bool
  maskMaxRt : Bool
  enCrc : Bool
  crco : CrcEncodingScheme
  pwrUp : Bool
  primRx : Bool
deriving DecidableEq, Repr

/-- A value of type EnAa (R24). -/
structure EnAaReg where
  enaaP0 : Bool
  enaaP1 : Bool
  enaaP2 : Bool
  enaaP3 : Bool
  enaaP4 : Bool
  enaaP5 : Bool
deriving DecidableEq, Repr

/-- A value of type EnRxaddr (R25). -/
structure EnRxaddrReg where
  erxP0 : Bool
  erxP1 : Bool
  erxP2 : Bool
  erxP3 : Bool
  erxP4 : Bool
  erxP5 : Bool
deriving DecidableEq, Repr

/-- A value of type SetupRetr (R27). -/
structure SetupRetrReg where
  ard : AutoRetransmitDelay
  arc : BitVec 4
deriving DecidableEq, Repr

/-- A value of type RfSetup (R29). -/
structure RfSetupReg where
  contWave : Bool
  rfDr : DataRate
  rfPwr : RfPower
deriving DecidableEq, Repr

/-- A value of type Status (R30). -/
structure StatusReg where
  rxDr : Bool
  txDs : Bool
  maxRt : Bool
  rxPNo : BitVec 3
  txFull : Bool
deriving DecidableEq, Repr

/-- A value of type ObserveTx (R31). -/
structure ObserveTxReg where
  plosCnt : BitVec 4
  arcCnt : BitVec 4
deriving DecidableEq, Repr

/-- A value of type FifoStatus (R36). -/
structure FifoStatusReg where
  txReuse : Bool
  txFull : Bool
  txEmpty : Bool
  rxFull : Bool
  rxEmpty : Bool
deriving DecidableEq, Repr

/-- A value of type Dynpd (R37). -/
structure DynpdReg where
  dplP0 : Bool
  dplP1 : Bool
  dplP2 : Bool
  dplP3 : Bool
  dplP4 : Bool
  dplP5 : Bool
deriving DecidableEq, Repr

/-- A value of type Feature (R38). -/
structure FeatureReg where
  enDpl : Bool
  enAckPay : Bool
  enDynAck : Bool
deriving DecidableEq, Repr

/-- A register value, by its register type (R22). A type with a single slot carries that slot's
value directly. -/
inductive RegValue : RegType → Type where
  | config (r : ConfigReg) : RegValue .config
  | enAa (r : EnAaReg) : RegValue .enAa
  | enRxaddr (r : EnRxaddrReg) : RegValue .enRxaddr
  | setupAw (aw : AddressWidth) : RegValue .setupAw
  | setupRetr (r : SetupRetrReg) : RegValue .setupRetr
  | rfCh (rfCh : BitVec 7) : RegValue .rfCh
  | rfSetup (r : RfSetupReg) : RegValue .rfSetup
  | status (r : StatusReg) : RegValue .status
  | observeTx (r : ObserveTxReg) : RegValue .observeTx
  | rpd (rpd : Bool) : RegValue .rpd
  | rxAddrP0 (rxAddrP0 : BitVec 40) : RegValue .rxAddrP0
  | rxAddrP1 (rxAddrP1 : BitVec 40) : RegValue .rxAddrP1
  | rxAddrP2 (rxAddrP2 : BitVec 8) : RegValue .rxAddrP2
  | rxAddrP3 (rxAddrP3 : BitVec 8) : RegValue .rxAddrP3
  | rxAddrP4 (rxAddrP4 : BitVec 8) : RegValue .rxAddrP4
  | rxAddrP5 (rxAddrP5 : BitVec 8) : RegValue .rxAddrP5
  | txAddr (txAddr : BitVec 40) : RegValue .txAddr
  | rxPwP0 (rxPwP0 : BitVec 6) : RegValue .rxPwP0
  | rxPwP1 (rxPwP1 : BitVec 6) : RegValue .rxPwP1
  | rxPwP2 (rxPwP2 : BitVec 6) : RegValue .rxPwP2
  | rxPwP3 (rxPwP3 : BitVec 6) : RegValue .rxPwP3
  | rxPwP4 (rxPwP4 : BitVec 6) : RegValue .rxPwP4
  | rxPwP5 (rxPwP5 : BitVec 6) : RegValue .rxPwP5
  | fifoStatus (r : FifoStatusReg) : RegValue .fifoStatus
  | dynpd (r : DynpdReg) : RegValue .dynpd
  | feature (r : FeatureReg) : RegValue .feature
deriving DecidableEq, Repr

/-- The `bool` slots of each register type (R23 to R38). -/
inductive BoolSlot : RegType → Type where
  | maskRxDr : BoolSlot .config
  | maskTxDs : BoolSlot .config
  | maskMaxRt : BoolSlot .config
  | enCrc : BoolSlot .config
  | pwrUp : BoolSlot .config
  | primRx : BoolSlot .config
  | enaaP0 : BoolSlot .enAa
  | enaaP1 : BoolSlot .enAa
  | enaaP2 : BoolSlot .enAa
  | enaaP3 : BoolSlot .enAa
  | enaaP4 : BoolSlot .enAa
  | enaaP5 : BoolSlot .enAa
  | erxP0 : BoolSlot .enRxaddr
  | erxP1 : BoolSlot .enRxaddr
  | erxP2 : BoolSlot .enRxaddr
  | erxP3 : BoolSlot .enRxaddr
  | erxP4 : BoolSlot .enRxaddr
  | erxP5 : BoolSlot .enRxaddr
  | contWave : BoolSlot .rfSetup
  | rxDr : BoolSlot .status
  | txDs : BoolSlot .status
  | maxRt : BoolSlot .status
  | txFull : BoolSlot .status
  | rpd : BoolSlot .rpd
  | txReuse : BoolSlot .fifoStatus
  | fifoTxFull : BoolSlot .fifoStatus
  | txEmpty : BoolSlot .fifoStatus
  | rxFull : BoolSlot .fifoStatus
  | rxEmpty : BoolSlot .fifoStatus
  | dplP0 : BoolSlot .dynpd
  | dplP1 : BoolSlot .dynpd
  | dplP2 : BoolSlot .dynpd
  | dplP3 : BoolSlot .dynpd
  | dplP4 : BoolSlot .dynpd
  | dplP5 : BoolSlot .dynpd
  | enDpl : BoolSlot .feature
  | enAckPay : BoolSlot .feature
  | enDynAck : BoolSlot .feature
deriving DecidableEq, Repr

/-- The `raw N` slots of each register type (R27 to R35). -/
inductive RawSlot : RegType → Type where
  | arc : RawSlot .setupRetr
  | rfCh : RawSlot .rfCh
  | rxPNo : RawSlot .status
  | plosCnt : RawSlot .observeTx
  | arcCnt : RawSlot .observeTx
  | rxAddrP0 : RawSlot .rxAddrP0
  | rxAddrP1 : RawSlot .rxAddrP1
  | rxAddrP2 : RawSlot .rxAddrP2
  | rxAddrP3 : RawSlot .rxAddrP3
  | rxAddrP4 : RawSlot .rxAddrP4
  | rxAddrP5 : RawSlot .rxAddrP5
  | txAddr : RawSlot .txAddr
  | rxPwP0 : RawSlot .rxPwP0
  | rxPwP1 : RawSlot .rxPwP1
  | rxPwP2 : RawSlot .rxPwP2
  | rxPwP3 : RawSlot .rxPwP3
  | rxPwP4 : RawSlot .rxPwP4
  | rxPwP5 : RawSlot .rxPwP5
deriving DecidableEq, Repr

/-- Every non-reserved slot of each register type: a `bool` slot, a `raw N` slot, or the one slot of
an enumeration (R19). -/
inductive Slot : RegType → Type where
  | bool {R : RegType} (s : BoolSlot R) : Slot R
  | raw {R : RegType} (s : RawSlot R) : Slot R
  | crco : Slot .config
  | aw : Slot .setupAw
  | ard : Slot .setupRetr
  | rfDr : Slot .rfSetup
  | rfPwr : Slot .rfSetup
deriving DecidableEq, Repr

/-- One assignment `slot = value` of the syntax (30_encoding.md R74): the operand pair of
`with_<slot>(value)` (41_register_model.md R89). A raw value is any unsigned integer; whether it fits
its slot is checked when it is applied. -/
inductive Assign : RegType → Type where
  | bool {R : RegType} (s : BoolSlot R) (v : Bool) : Assign R
  | raw {R : RegType} (s : RawSlot R) (v : Nat) : Assign R
  | crco (v : CrcEncodingScheme) : Assign .config
  | aw (v : AddressWidth) : Assign .setupAw
  | ard (v : AutoRetransmitDelay) : Assign .setupRetr
  | rfDr (v : DataRate) : Assign .rfSetup
  | rfPwr (v : RfPower) : Assign .rfSetup
deriving DecidableEq, Repr

end Sys2Proof
end

