-- ==== Sys2Proof/Machine/Errors.lean ====
section
/-!
DEFINITION. The command kinds and the seven construction errors (60_exceptions.md R113 to R121),
each with the information R114 records.
-/

namespace Sys2Proof

/-- The kinds of command, one per row of the opcode map (30_encoding.md R69). -/
inductive CommandKind where
  | rRegister
  | wRegister
  | rRxPayload
  | rRxPlWid
  | wTxPayload
  | wAckPayload
  | wTxPayloadNoack
  | flushTx
  | flushRx
  | reuseTxPl
  | nop
  | activate
deriving DecidableEq, Repr

/-- A construction error (R114): the refusal of a value while it is built. -/
inductive ConstructionError where
  /-- `with_<s>(v)` on a `raw N` slot with `v >= 2^N` (R115). -/
  | rawFieldOverflow (R : RegType) (s : RawSlot R) (v n : Nat)
  /-- A payload write command with a payload of 0 or more than 32 bytes (R116). -/
  | payloadLengthOutOfRange (kind : CommandKind) (len : Nat)
  /-- R_RX_PAYLOAD with n = 0 or n > 32 (R117). -/
  | readLengthOutOfRange (n : Nat)
  /-- W_ACK_PAYLOAD with a pipe above 5 (R118). -/
  | invalidPipe (pipe : Nat)
  /-- `F::decode(c)` with c no valid code, and so `unpack` (R119). -/
  | invalidCode (F : FieldType) (c : Nat)
  /-- `R::unpack(b)` with `len(b) != R.WIDTH` (R120). -/
  | wrongLength (R : RegType) (len : Nat)
  /-- `R::unpack(b)` with a 1 in the reserved slot at that bit offset (R121). -/
  | reservedBitSet (R : RegType) (offset : Nat)
deriving DecidableEq, Repr

/-- The spec's number for the kind of an error (R114). -/
def ConstructionError.kindCode : ConstructionError → Nat
  | .rawFieldOverflow _ _ _ _ => 1
  | .payloadLengthOutOfRange _ _ => 2
  | .readLengthOutOfRange _ => 3
  | .invalidPipe _ => 4
  | .invalidCode _ _ => 5
  | .wrongLength _ _ => 6
  | .reservedBitSet _ _ => 7

end Sys2Proof
end

