-- ==== Sys2Proof/Machine/Fields.lean ====
section
/-!
DEFINITION. The Field Model (40_field_model.md R77 to R87): the code of each enumerant and the
partial inverse, which raises InvalidCode outside the valid codes. `code` is the rule's
`F::encode`.
-/

namespace Sys2Proof

/-- `CrcEncodingScheme::encode` (R79, R85). -/
def CrcEncodingScheme.code : CrcEncodingScheme → BitVec 1
  | .oneByte => 0b0
  | .twoBytes => 0b1

/-- `AddressWidth::encode` (R80, R85). -/
def AddressWidth.code : AddressWidth → BitVec 2
  | .bytes3 => 0b01
  | .bytes4 => 0b10
  | .bytes5 => 0b11

/-- `AutoRetransmitDelay::encode` (R81, R85). -/
def AutoRetransmitDelay.code : AutoRetransmitDelay → BitVec 4
  | .us250 => 0b0000
  | .us500 => 0b0001
  | .us750 => 0b0010
  | .us1000 => 0b0011
  | .us1250 => 0b0100
  | .us1500 => 0b0101
  | .us1750 => 0b0110
  | .us2000 => 0b0111
  | .us2250 => 0b1000
  | .us2500 => 0b1001
  | .us2750 => 0b1010
  | .us3000 => 0b1011
  | .us3250 => 0b1100
  | .us3500 => 0b1101
  | .us3750 => 0b1110
  | .us4000 => 0b1111

/-- `DataRate::encode` (R82, R85). -/
def DataRate.code : DataRate → BitVec 3
  | .mbps1 => 0b000
  | .mbps2 => 0b001
  | .kbps250 => 0b100

/-- `RfPower::encode` (R83, R85). -/
def RfPower.code : RfPower → BitVec 2
  | .neg18Dbm => 0b00
  | .neg12Dbm => 0b01
  | .neg6Dbm => 0b10
  | .dbm0 => 0b11

/-- `CrcEncodingScheme::decode` (R86): every 1-bit code is valid (R79). -/
def CrcEncodingScheme.decode (c : BitVec 1) : Except ConstructionError CrcEncodingScheme :=
  if c = 0b0 then .ok .oneByte
  else if c = 0b1 then .ok .twoBytes
  else .error (.invalidCode .crcEncodingScheme c.toNat)

/-- `AddressWidth::decode` (R86): 0b00 raises InvalidCode (R80). -/
def AddressWidth.decode (c : BitVec 2) : Except ConstructionError AddressWidth :=
  if c = 0b01 then .ok .bytes3
  else if c = 0b10 then .ok .bytes4
  else if c = 0b11 then .ok .bytes5
  else .error (.invalidCode .addressWidth c.toNat)

/-- The enumerants of AutoRetransmitDelay (R81). -/
def AutoRetransmitDelay.all : List AutoRetransmitDelay :=
  [.us250, .us500, .us750, .us1000, .us1250, .us1500, .us1750, .us2000,
   .us2250, .us2500, .us2750, .us3000, .us3250, .us3500, .us3750, .us4000]

/-- `AutoRetransmitDelay::decode` (R86): the unique enumerant with that code; every 4-bit code is
valid (R81). -/
def AutoRetransmitDelay.decode (c : BitVec 4) : Except ConstructionError AutoRetransmitDelay :=
  match AutoRetransmitDelay.all.find? fun e => e.code == c with
  | some e => .ok e
  | none => .error (.invalidCode .autoRetransmitDelay c.toNat)

/-- `DataRate::decode` (R86): the codes 0b010, 0b011, 0b101, 0b110, 0b111 raise InvalidCode (R82). -/
def DataRate.decode (c : BitVec 3) : Except ConstructionError DataRate :=
  if c = 0b000 then .ok .mbps1
  else if c = 0b001 then .ok .mbps2
  else if c = 0b100 then .ok .kbps250
  else .error (.invalidCode .dataRate c.toNat)

/-- `RfPower::decode` (R86): every 2-bit code is valid (R83). -/
def RfPower.decode (c : BitVec 2) : Except ConstructionError RfPower :=
  if c = 0b00 then .ok .neg18Dbm
  else if c = 0b01 then .ok .neg12Dbm
  else if c = 0b10 then .ok .neg6Dbm
  else if c = 0b11 then .ok .dbm0
  else .error (.invalidCode .rfPower c.toNat)

end Sys2Proof
end

