-- ==== Sys2Proof/Machine/Registers.lean ====
section
/-!
DEFINITION. The Register Model (10_state.md R19 to R43, 41_register_model.md R88 to R97): addresses,
widths, slot layouts, `with_defaults`, the setters `with_<s>`, the field reads, `pack` and `unpack`.
-/

namespace Sys2Proof

/-- Every register type, in increasing address order (10_state.md section 3). -/
def RegType.all : List RegType :=
  [.config, .enAa, .enRxaddr, .setupAw, .setupRetr, .rfCh, .rfSetup, .status, .observeTx,
   .rpd, .rxAddrP0, .rxAddrP1, .rxAddrP2, .rxAddrP3, .rxAddrP4, .rxAddrP5, .txAddr,
   .rxPwP0, .rxPwP1, .rxPwP2, .rxPwP3, .rxPwP4, .rxPwP5, .fifoStatus, .dynpd, .feature]

/-- `R.ADDRESS` (R93; the summary table of 10_state.md section 3). -/
def RegType.address : RegType → Byte
  | .config => 0x00
  | .enAa => 0x01
  | .enRxaddr => 0x02
  | .setupAw => 0x03
  | .setupRetr => 0x04
  | .rfCh => 0x05
  | .rfSetup => 0x06
  | .status => 0x07
  | .observeTx => 0x08
  | .rpd => 0x09
  | .rxAddrP0 => 0x0A
  | .rxAddrP1 => 0x0B
  | .rxAddrP2 => 0x0C
  | .rxAddrP3 => 0x0D
  | .rxAddrP4 => 0x0E
  | .rxAddrP5 => 0x0F
  | .txAddr => 0x10
  | .rxPwP0 => 0x11
  | .rxPwP1 => 0x12
  | .rxPwP2 => 0x13
  | .rxPwP3 => 0x14
  | .rxPwP4 => 0x15
  | .rxPwP5 => 0x16
  | .fifoStatus => 0x17
  | .dynpd => 0x1C
  | .feature => 0x1D

/-- The register type at an address, if there is one: addresses 0x18 to 0x1B, 0x1E, 0x1F and all
above 0x1F have none (R43). -/
def RegType.ofAddress (a : Byte) : Option RegType :=
  RegType.all.find? fun R => R.address == a

/-- `R.WIDTH` in bytes (R94): `ADDR_REG_BYTES` for the three full-width address registers (R33), 1
for every other type. -/
def RegType.width : RegType → Nat
  | .rxAddrP0 | .rxAddrP1 | .txAddr => Config.addrRegBytes
  | _ => 1

/-- The width N of a `raw N` slot (R27 to R35, listed together in R115). -/
def RawSlot.width : {R : RegType} → RawSlot R → Nat
  | _, .arc => 4
  | _, .rfCh => 7
  | _, .rxPNo => 3
  | _, .plosCnt => 4
  | _, .arcCnt => 4
  | _, .rxAddrP0 => 40
  | _, .rxAddrP1 => 40
  | _, .rxAddrP2 => 8
  | _, .rxAddrP3 => 8
  | _, .rxAddrP4 => 8
  | _, .rxAddrP5 => 8
  | _, .txAddr => 40
  | _, .rxPwP0 => 6
  | _, .rxPwP1 => 6
  | _, .rxPwP2 => 6
  | _, .rxPwP3 => 6
  | _, .rxPwP4 => 6
  | _, .rxPwP5 => 6

/-- One slot of a layout (R19): `none` is a reserved slot. -/
structure SlotDesc (R : RegType) where
  slot : Option (Slot R)
  offset : Nat
  width : Nat
deriving DecidableEq, Repr

/-- The layout of each register type, its slots in increasing bit offset (R23 to R38). -/
def layout : (R : RegType) → List (SlotDesc R)
  | .config =>
    [⟨some (.bool .primRx), 0, 1⟩, ⟨some (.bool .pwrUp), 1, 1⟩, ⟨some .crco, 2, 1⟩,
     ⟨some (.bool .enCrc), 3, 1⟩, ⟨some (.bool .maskMaxRt), 4, 1⟩,
     ⟨some (.bool .maskTxDs), 5, 1⟩, ⟨some (.bool .maskRxDr), 6, 1⟩, ⟨none, 7, 1⟩]
  | .enAa =>
    [⟨some (.bool .enaaP0), 0, 1⟩, ⟨some (.bool .enaaP1), 1, 1⟩,
     ⟨some (.bool .enaaP2), 2, 1⟩, ⟨some (.bool .enaaP3), 3, 1⟩,
     ⟨some (.bool .enaaP4), 4, 1⟩, ⟨some (.bool .enaaP5), 5, 1⟩, ⟨none, 6, 2⟩]
  | .enRxaddr =>
    [⟨some (.bool .erxP0), 0, 1⟩, ⟨some (.bool .erxP1), 1, 1⟩, ⟨some (.bool .erxP2), 2, 1⟩,
     ⟨some (.bool .erxP3), 3, 1⟩, ⟨some (.bool .erxP4), 4, 1⟩, ⟨some (.bool .erxP5), 5, 1⟩,
     ⟨none, 6, 2⟩]
  | .setupAw =>
    [⟨some .aw, 0, 2⟩, ⟨none, 2, 6⟩]
  | .setupRetr =>
    [⟨some (.raw .arc), 0, 4⟩, ⟨some .ard, 4, 4⟩]
  | .rfCh =>
    [⟨some (.raw .rfCh), 0, 7⟩, ⟨none, 7, 1⟩]
  | .rfSetup =>
    [⟨none, 0, 1⟩, ⟨some .rfPwr, 1, 2⟩, ⟨some .rfDr, 3, 3⟩, ⟨none, 6, 1⟩,
     ⟨some (.bool .contWave), 7, 1⟩]
  | .status =>
    [⟨some (.bool .txFull), 0, 1⟩, ⟨some (.raw .rxPNo), 1, 3⟩, ⟨some (.bool .maxRt), 4, 1⟩,
     ⟨some (.bool .txDs), 5, 1⟩, ⟨some (.bool .rxDr), 6, 1⟩, ⟨none, 7, 1⟩]
  | .observeTx =>
    [⟨some (.raw .arcCnt), 0, 4⟩, ⟨some (.raw .plosCnt), 4, 4⟩]
  | .rpd =>
    [⟨some (.bool .rpd), 0, 1⟩, ⟨none, 1, 7⟩]
  | .rxAddrP0 =>
    [⟨some (.raw .rxAddrP0), 0, 40⟩]
  | .rxAddrP1 =>
    [⟨some (.raw .rxAddrP1), 0, 40⟩]
  | .rxAddrP2 =>
    [⟨some (.raw .rxAddrP2), 0, 8⟩]
  | .rxAddrP3 =>
    [⟨some (.raw .rxAddrP3), 0, 8⟩]
  | .rxAddrP4 =>
    [⟨some (.raw .rxAddrP4), 0, 8⟩]
  | .rxAddrP5 =>
    [⟨some (.raw .rxAddrP5), 0, 8⟩]
  | .txAddr =>
    [⟨some (.raw .txAddr), 0, 40⟩]
  | .rxPwP0 =>
    [⟨some (.raw .rxPwP0), 0, 6⟩, ⟨none, 6, 2⟩]
  | .rxPwP1 =>
    [⟨some (.raw .rxPwP1), 0, 6⟩, ⟨none, 6, 2⟩]
  | .rxPwP2 =>
    [⟨some (.raw .rxPwP2), 0, 6⟩, ⟨none, 6, 2⟩]
  | .rxPwP3 =>
    [⟨some (.raw .rxPwP3), 0, 6⟩, ⟨none, 6, 2⟩]
  | .rxPwP4 =>
    [⟨some (.raw .rxPwP4), 0, 6⟩, ⟨none, 6, 2⟩]
  | .rxPwP5 =>
    [⟨some (.raw .rxPwP5), 0, 6⟩, ⟨none, 6, 2⟩]
  | .fifoStatus =>
    [⟨some (.bool .rxEmpty), 0, 1⟩, ⟨some (.bool .rxFull), 1, 1⟩, ⟨none, 2, 2⟩,
     ⟨some (.bool .txEmpty), 4, 1⟩, ⟨some (.bool .fifoTxFull), 5, 1⟩,
     ⟨some (.bool .txReuse), 6, 1⟩, ⟨none, 7, 1⟩]
  | .dynpd =>
    [⟨some (.bool .dplP0), 0, 1⟩, ⟨some (.bool .dplP1), 1, 1⟩, ⟨some (.bool .dplP2), 2, 1⟩,
     ⟨some (.bool .dplP3), 3, 1⟩, ⟨some (.bool .dplP4), 4, 1⟩, ⟨some (.bool .dplP5), 5, 1⟩,
     ⟨none, 6, 2⟩]
  | .feature =>
    [⟨some (.bool .enDynAck), 0, 1⟩, ⟨some (.bool .enAckPay), 1, 1⟩,
     ⟨some (.bool .enDpl), 2, 1⟩, ⟨none, 3, 5⟩]

/-- `R::with_defaults()` (R88): every non-reserved slot at its default of R23 to R38. -/
def RegValue.withDefaults : (R : RegType) → RegValue R
  | .config =>
    .config
      { maskRxDr := false, maskTxDs := false, maskMaxRt := false, enCrc := true
        crco := .oneByte, pwrUp := false, primRx := false }
  | .enAa => .enAa { enaaP0 := true, enaaP1 := true, enaaP2 := true, enaaP3 := true, enaaP4 := true, enaaP5 := true }
  | .enRxaddr => .enRxaddr { erxP0 := true, erxP1 := true, erxP2 := false, erxP3 := false, erxP4 := false, erxP5 := false }
  | .setupAw => .setupAw .bytes5
  | .setupRetr => .setupRetr { ard := .us250, arc := 3 }
  | .rfCh => .rfCh 2
  | .rfSetup => .rfSetup { contWave := false, rfDr := .mbps2, rfPwr := .dbm0 }
  | .status => .status { rxDr := false, txDs := false, maxRt := false, rxPNo := 7, txFull := false }
  | .observeTx => .observeTx { plosCnt := 0, arcCnt := 0 }
  | .rpd => .rpd false
  | .rxAddrP0 => .rxAddrP0 0xE7E7E7E7E7
  | .rxAddrP1 => .rxAddrP1 0xC2C2C2C2C2
  | .rxAddrP2 => .rxAddrP2 0xC3
  | .rxAddrP3 => .rxAddrP3 0xC4
  | .rxAddrP4 => .rxAddrP4 0xC5
  | .rxAddrP5 => .rxAddrP5 0xC6
  | .txAddr => .txAddr 0xE7E7E7E7E7
  | .rxPwP0 => .rxPwP0 0
  | .rxPwP1 => .rxPwP1 0
  | .rxPwP2 => .rxPwP2 0
  | .rxPwP3 => .rxPwP3 0
  | .rxPwP4 => .rxPwP4 0
  | .rxPwP5 => .rxPwP5 0
  | .fifoStatus => .fifoStatus { txReuse := false, txFull := false, txEmpty := true, rxFull := false, rxEmpty := true }
  | .dynpd => .dynpd { dplP0 := false, dplP1 := false, dplP2 := false, dplP3 := false, dplP4 := false, dplP5 := false }
  | .feature => .feature { enDpl := false, enAckPay := false, enDynAck := false }

/-- The "default packed bytes" column of the summary table of 10_state.md section 3. -/
def RegType.defaultBytes : RegType → List Byte
  | .config => [0x08]
  | .enAa => [0x3F]
  | .enRxaddr => [0x03]
  | .setupAw => [0x03]
  | .setupRetr => [0x03]
  | .rfCh => [0x02]
  | .rfSetup => [0x0E]
  | .status => [0x0E]
  | .observeTx => [0x00]
  | .rpd => [0x00]
  | .rxAddrP0 => [0xE7, 0xE7, 0xE7, 0xE7, 0xE7]
  | .rxAddrP1 => [0xC2, 0xC2, 0xC2, 0xC2, 0xC2]
  | .rxAddrP2 => [0xC3]
  | .rxAddrP3 => [0xC4]
  | .rxAddrP4 => [0xC5]
  | .rxAddrP5 => [0xC6]
  | .txAddr => [0xE7, 0xE7, 0xE7, 0xE7, 0xE7]
  | .rxPwP0 => [0x00]
  | .rxPwP1 => [0x00]
  | .rxPwP2 => [0x00]
  | .rxPwP3 => [0x00]
  | .rxPwP4 => [0x00]
  | .rxPwP5 => [0x00]
  | .fifoStatus => [0x11]
  | .dynpd => [0x00]
  | .feature => [0x00]

/-- The read `r.<s>()` of a `bool` slot (R90). -/
def RegValue.getBool : {R : RegType} → BoolSlot R → RegValue R → Bool
  | _, .maskRxDr, .config r => r.maskRxDr
  | _, .maskTxDs, .config r => r.maskTxDs
  | _, .maskMaxRt, .config r => r.maskMaxRt
  | _, .enCrc, .config r => r.enCrc
  | _, .pwrUp, .config r => r.pwrUp
  | _, .primRx, .config r => r.primRx
  | _, .enaaP0, .enAa r => r.enaaP0
  | _, .enaaP1, .enAa r => r.enaaP1
  | _, .enaaP2, .enAa r => r.enaaP2
  | _, .enaaP3, .enAa r => r.enaaP3
  | _, .enaaP4, .enAa r => r.enaaP4
  | _, .enaaP5, .enAa r => r.enaaP5
  | _, .erxP0, .enRxaddr r => r.erxP0
  | _, .erxP1, .enRxaddr r => r.erxP1
  | _, .erxP2, .enRxaddr r => r.erxP2
  | _, .erxP3, .enRxaddr r => r.erxP3
  | _, .erxP4, .enRxaddr r => r.erxP4
  | _, .erxP5, .enRxaddr r => r.erxP5
  | _, .contWave, .rfSetup r => r.contWave
  | _, .rxDr, .status r => r.rxDr
  | _, .txDs, .status r => r.txDs
  | _, .maxRt, .status r => r.maxRt
  | _, .txFull, .status r => r.txFull
  | _, .rpd, .rpd b => b
  | _, .txReuse, .fifoStatus r => r.txReuse
  | _, .fifoTxFull, .fifoStatus r => r.txFull
  | _, .txEmpty, .fifoStatus r => r.txEmpty
  | _, .rxFull, .fifoStatus r => r.rxFull
  | _, .rxEmpty, .fifoStatus r => r.rxEmpty
  | _, .dplP0, .dynpd r => r.dplP0
  | _, .dplP1, .dynpd r => r.dplP1
  | _, .dplP2, .dynpd r => r.dplP2
  | _, .dplP3, .dynpd r => r.dplP3
  | _, .dplP4, .dynpd r => r.dplP4
  | _, .dplP5, .dynpd r => r.dplP5
  | _, .enDpl, .feature r => r.enDpl
  | _, .enAckPay, .feature r => r.enAckPay
  | _, .enDynAck, .feature r => r.enDynAck

/-- The read `r.<s>()` of a `raw N` slot, as an unsigned integer (R90). -/
def RegValue.getRaw : {R : RegType} → RawSlot R → RegValue R → Nat
  | _, .arc, .setupRetr r => r.arc.toNat
  | _, .rfCh, .rfCh x => x.toNat
  | _, .rxPNo, .status r => r.rxPNo.toNat
  | _, .plosCnt, .observeTx r => r.plosCnt.toNat
  | _, .arcCnt, .observeTx r => r.arcCnt.toNat
  | _, .rxAddrP0, .rxAddrP0 x => x.toNat
  | _, .rxAddrP1, .rxAddrP1 x => x.toNat
  | _, .rxAddrP2, .rxAddrP2 x => x.toNat
  | _, .rxAddrP3, .rxAddrP3 x => x.toNat
  | _, .rxAddrP4, .rxAddrP4 x => x.toNat
  | _, .rxAddrP5, .rxAddrP5 x => x.toNat
  | _, .txAddr, .txAddr x => x.toNat
  | _, .rxPwP0, .rxPwP0 x => x.toNat
  | _, .rxPwP1, .rxPwP1 x => x.toNat
  | _, .rxPwP2, .rxPwP2 x => x.toNat
  | _, .rxPwP3, .rxPwP3 x => x.toNat
  | _, .rxPwP4, .rxPwP4 x => x.toNat
  | _, .rxPwP5, .rxPwP5 x => x.toNat

/-- The read of Config.crco (R90). -/
def RegValue.getCrco : RegValue .config → CrcEncodingScheme
  | .config r => r.crco

/-- The read of SetupAw.aw (R90). -/
def RegValue.getAw : RegValue .setupAw → AddressWidth
  | .setupAw aw => aw

/-- The read of SetupRetr.ard (R90). -/
def RegValue.getArd : RegValue .setupRetr → AutoRetransmitDelay
  | .setupRetr r => r.ard

/-- The read of RfSetup.rf_dr (R90). -/
def RegValue.getRfDr : RegValue .rfSetup → DataRate
  | .rfSetup r => r.rfDr

/-- The read of RfSetup.rf_pwr (R90). -/
def RegValue.getRfPwr : RegValue .rfSetup → RfPower
  | .rfSetup r => r.rfPwr

/-- `r.with_<s>(v)` for a `bool` slot (R89). -/
def RegValue.withBool : {R : RegType} → BoolSlot R → Bool → RegValue R → RegValue R
  | _, .maskRxDr, v, .config r => .config { r with maskRxDr := v }
  | _, .maskTxDs, v, .config r => .config { r with maskTxDs := v }
  | _, .maskMaxRt, v, .config r => .config { r with maskMaxRt := v }
  | _, .enCrc, v, .config r => .config { r with enCrc := v }
  | _, .pwrUp, v, .config r => .config { r with pwrUp := v }
  | _, .primRx, v, .config r => .config { r with primRx := v }
  | _, .enaaP0, v, .enAa r => .enAa { r with enaaP0 := v }
  | _, .enaaP1, v, .enAa r => .enAa { r with enaaP1 := v }
  | _, .enaaP2, v, .enAa r => .enAa { r with enaaP2 := v }
  | _, .enaaP3, v, .enAa r => .enAa { r with enaaP3 := v }
  | _, .enaaP4, v, .enAa r => .enAa { r with enaaP4 := v }
  | _, .enaaP5, v, .enAa r => .enAa { r with enaaP5 := v }
  | _, .erxP0, v, .enRxaddr r => .enRxaddr { r with erxP0 := v }
  | _, .erxP1, v, .enRxaddr r => .enRxaddr { r with erxP1 := v }
  | _, .erxP2, v, .enRxaddr r => .enRxaddr { r with erxP2 := v }
  | _, .erxP3, v, .enRxaddr r => .enRxaddr { r with erxP3 := v }
  | _, .erxP4, v, .enRxaddr r => .enRxaddr { r with erxP4 := v }
  | _, .erxP5, v, .enRxaddr r => .enRxaddr { r with erxP5 := v }
  | _, .contWave, v, .rfSetup r => .rfSetup { r with contWave := v }
  | _, .rxDr, v, .status r => .status { r with rxDr := v }
  | _, .txDs, v, .status r => .status { r with txDs := v }
  | _, .maxRt, v, .status r => .status { r with maxRt := v }
  | _, .txFull, v, .status r => .status { r with txFull := v }
  | _, .rpd, v, .rpd _ => .rpd v
  | _, .txReuse, v, .fifoStatus r => .fifoStatus { r with txReuse := v }
  | _, .fifoTxFull, v, .fifoStatus r => .fifoStatus { r with txFull := v }
  | _, .txEmpty, v, .fifoStatus r => .fifoStatus { r with txEmpty := v }
  | _, .rxFull, v, .fifoStatus r => .fifoStatus { r with rxFull := v }
  | _, .rxEmpty, v, .fifoStatus r => .fifoStatus { r with rxEmpty := v }
  | _, .dplP0, v, .dynpd r => .dynpd { r with dplP0 := v }
  | _, .dplP1, v, .dynpd r => .dynpd { r with dplP1 := v }
  | _, .dplP2, v, .dynpd r => .dynpd { r with dplP2 := v }
  | _, .dplP3, v, .dynpd r => .dynpd { r with dplP3 := v }
  | _, .dplP4, v, .dynpd r => .dynpd { r with dplP4 := v }
  | _, .dplP5, v, .dynpd r => .dynpd { r with dplP5 := v }
  | _, .enDpl, v, .feature r => .feature { r with enDpl := v }
  | _, .enAckPay, v, .feature r => .feature { r with enAckPay := v }
  | _, .enDynAck, v, .feature r => .feature { r with enDynAck := v }

/-- A `raw N` slot replaced by the N-bit value `v` (R89, after its check). -/
def RegValue.putRaw : {R : RegType} → RawSlot R → Nat → RegValue R → RegValue R
  | _, .arc, v, .setupRetr r => .setupRetr { r with arc := BitVec.ofNat 4 v }
  | _, .rfCh, v, .rfCh _ => .rfCh (BitVec.ofNat 7 v)
  | _, .rxPNo, v, .status r => .status { r with rxPNo := BitVec.ofNat 3 v }
  | _, .plosCnt, v, .observeTx r => .observeTx { r with plosCnt := BitVec.ofNat 4 v }
  | _, .arcCnt, v, .observeTx r => .observeTx { r with arcCnt := BitVec.ofNat 4 v }
  | _, .rxAddrP0, v, .rxAddrP0 _ => .rxAddrP0 (BitVec.ofNat 40 v)
  | _, .rxAddrP1, v, .rxAddrP1 _ => .rxAddrP1 (BitVec.ofNat 40 v)
  | _, .rxAddrP2, v, .rxAddrP2 _ => .rxAddrP2 (BitVec.ofNat 8 v)
  | _, .rxAddrP3, v, .rxAddrP3 _ => .rxAddrP3 (BitVec.ofNat 8 v)
  | _, .rxAddrP4, v, .rxAddrP4 _ => .rxAddrP4 (BitVec.ofNat 8 v)
  | _, .rxAddrP5, v, .rxAddrP5 _ => .rxAddrP5 (BitVec.ofNat 8 v)
  | _, .txAddr, v, .txAddr _ => .txAddr (BitVec.ofNat 40 v)
  | _, .rxPwP0, v, .rxPwP0 _ => .rxPwP0 (BitVec.ofNat 6 v)
  | _, .rxPwP1, v, .rxPwP1 _ => .rxPwP1 (BitVec.ofNat 6 v)
  | _, .rxPwP2, v, .rxPwP2 _ => .rxPwP2 (BitVec.ofNat 6 v)
  | _, .rxPwP3, v, .rxPwP3 _ => .rxPwP3 (BitVec.ofNat 6 v)
  | _, .rxPwP4, v, .rxPwP4 _ => .rxPwP4 (BitVec.ofNat 6 v)
  | _, .rxPwP5, v, .rxPwP5 _ => .rxPwP5 (BitVec.ofNat 6 v)

/-- `r.with_<s>(v)` for a `raw N` slot: a value that does not fit in N bits is rejected with
RawFieldOverflow, never truncated (R89, R115). -/
def RegValue.withRaw {R : RegType} (s : RawSlot R) (v : Nat) (r : RegValue R) :
    Except ConstructionError (RegValue R) :=
  if v ≥ 2 ^ s.width then .error (.rawFieldOverflow R s v s.width) else .ok (r.putRaw s v)

/-- `with_crco` (R89). -/
def RegValue.withCrco (v : CrcEncodingScheme) : RegValue .config → RegValue .config
  | .config r => .config { r with crco := v }

/-- `with_aw` (R89). -/
def RegValue.withAw (v : AddressWidth) : RegValue .setupAw → RegValue .setupAw
  | .setupAw _ => .setupAw v

/-- `with_ard` (R89). -/
def RegValue.withArd (v : AutoRetransmitDelay) : RegValue .setupRetr → RegValue .setupRetr
  | .setupRetr r => .setupRetr { r with ard := v }

/-- `with_rf_dr` (R89). -/
def RegValue.withRfDr (v : DataRate) : RegValue .rfSetup → RegValue .rfSetup
  | .rfSetup r => .rfSetup { r with rfDr := v }

/-- `with_rf_pwr` (R89). -/
def RegValue.withRfPwr (v : RfPower) : RegValue .rfSetup → RegValue .rfSetup
  | .rfSetup r => .rfSetup { r with rfPwr := v }

/-- The slot an assignment names. -/
def Assign.slot : {R : RegType} → Assign R → Slot R
  | _, .bool s _ => .bool s
  | _, .raw s _ => .raw s
  | _, .crco _ => .crco
  | _, .aw _ => .aw
  | _, .ard _ => .ard
  | _, .rfDr _ => .rfDr
  | _, .rfPwr _ => .rfPwr

/-- The integer code of an assigned value (R84, R85). -/
def Assign.code : {R : RegType} → Assign R → Nat
  | _, .bool _ v => v.toNat
  | _, .raw _ v => v
  | _, .crco v => v.code.toNat
  | _, .aw v => v.code.toNat
  | _, .ard v => v.code.toNat
  | _, .rfDr v => v.code.toNat
  | _, .rfPwr v => v.code.toNat

/-- `r.with_<s>(v)` for any slot (R89): the one setter that program lines go through (R74). Only a
`raw N` slot can raise. -/
def RegValue.withSlot : {R : RegType} → Assign R → RegValue R → Except ConstructionError (RegValue R)
  | _, .bool s v, r => .ok (r.withBool s v)
  | _, .raw s v, r => r.withRaw s v
  | _, .crco v, r => .ok (r.withCrco v)
  | _, .aw v, r => .ok (r.withAw v)
  | _, .ard v, r => .ok (r.withArd v)
  | _, .rfDr v, r => .ok (r.withRfDr v)
  | _, .rfPwr v, r => .ok (r.withRfPwr v)

/-- Assignments applied in turn, the first error final (R74, R122). -/
def RegValue.withSlots {R : RegType} : List (Assign R) → RegValue R →
    Except ConstructionError (RegValue R)
  | [], r => .ok r
  | a :: as, r =>
    match r.withSlot a with
    | .ok r' => r'.withSlots as
    | .error e => .error e

/-- The integer that `pack` places for a slot: 1 or 0 for a `bool`, the value itself for a `raw N`,
the enumerant's code for an enumeration (R91, R84). -/
def RegValue.slotCode : {R : RegType} → Slot R → RegValue R → Nat
  | _, .bool s, r => (r.getBool s).toNat
  | _, .raw s, r => r.getRaw s
  | _, .crco, r => r.getCrco.code.toNat
  | _, .aw, r => r.getAw.code.toNat
  | _, .ard, r => r.getArd.code.toNat
  | _, .rfDr, r => r.getRfDr.code.toNat
  | _, .rfPwr, r => r.getRfPwr.code.toNat

/-- What `pack` places for one slot of the layout; a reserved slot is 0 (R21, R91). -/
def RegValue.descCode {R : RegType} (d : SlotDesc R) (r : RegValue R) : Nat :=
  match d.slot with
  | some s => r.slotCode s
  | none => 0

/-- The packed value `v` of R91: each slot's code, widened, shifted to its offset and ORed in. The
40 bits are the widest register's; a 1-byte register uses the low 8 (notes/assumptions/10.md). -/
def RegValue.packed {R : RegType} (r : RegValue R) : BitVec 40 :=
  (layout R).foldl (fun v d => v ||| (BitVec.ofNat 40 (r.descCode d) <<< d.offset)) 0

/-- `le_bytes_W(v)`: the W low bytes of `v`, least significant first (00_scope.md R8). -/
def leBytes (w : Nat) (v : BitVec 40) : List Byte :=
  (List.range w).map fun i => (v >>> (8 * i)).setWidth 8

/-- `pack(r)` (R91; byte order 20_memory.md R48, R49). -/
def RegValue.pack {R : RegType} (r : RegValue R) : List Byte :=
  leBytes R.width r.packed

/-- `b[0] | (b[1] << 8) | ...`, least significant byte first (R92). -/
def leValue : List Byte → BitVec 40
  | [] => 0
  | b :: bs => b.setWidth 40 ||| (leValue bs <<< 8)

/-- `v[offset + width - 1 : offset]`, read as an unsigned integer (R6). -/
def bitsAt (v : BitVec 40) (offset width : Nat) : Nat :=
  (v >>> offset).toNat % 2 ^ width

/-- One non-reserved slot set from its code, as `unpack` does (R92). An enumeration slot may raise
InvalidCode (R119). -/
def RegValue.putCode : {R : RegType} → Slot R → Nat → RegValue R → Except ConstructionError (RegValue R)
  | _, .bool s, c, r => .ok (r.withBool s (c == 1))
  | _, .raw s, c, r => .ok (r.putRaw s c)
  | _, .crco, c, r => (CrcEncodingScheme.decode (BitVec.ofNat 1 c)).map (fun e => r.withCrco e)
  | _, .aw, c, r => (AddressWidth.decode (BitVec.ofNat 2 c)).map (fun e => r.withAw e)
  | _, .ard, c, r => (AutoRetransmitDelay.decode (BitVec.ofNat 4 c)).map (fun e => r.withArd e)
  | _, .rfDr, c, r => (DataRate.decode (BitVec.ofNat 3 c)).map (fun e => r.withRfDr e)
  | _, .rfPwr, c, r => (RfPower.decode (BitVec.ofNat 2 c)).map (fun e => r.withRfPwr e)

/-- One slot of `unpack`'s loop: a reserved slot with a 1 in it raises ReservedBitSet with the slot's
offset (R121), any other slot is set from its bits (R92). -/
def RegValue.unpackSlot {R : RegType} (v : BitVec 40) (d : SlotDesc R) (r : RegValue R) :
    Except ConstructionError (RegValue R) :=
  match d.slot with
  | none => if bitsAt v d.offset d.width = 0 then .ok r else .error (.reservedBitSet R d.offset)
  | some s => r.putCode s (bitsAt v d.offset d.width)

/-- `unpack`'s loop over the slots in increasing offset, the first error final (R92, R124). -/
def RegValue.unpackSlots {R : RegType} (v : BitVec 40) : List (SlotDesc R) → RegValue R →
    Except ConstructionError (RegValue R)
  | [], r => .ok r
  | d :: ds, r =>
    match r.unpackSlot v d with
    | .ok r' => r'.unpackSlots v ds
    | .error e => .error e

/-- `R::unpack(b)` (R92): WrongLength first (R120), then the slots from bit 0 upward. -/
def RegValue.unpack (R : RegType) (b : List Byte) : Except ConstructionError (RegValue R) :=
  if b.length = R.width then (RegValue.withDefaults R).unpackSlots (leValue b) (layout R)
  else .error (.wrongLength R b.length)

end Sys2Proof
end

