-- ==== Sys2Proof/Syntax.lean ====
section
/-!
DEFINITION. The command type of 42_register_commands.md R98: one constructor per row of
spec/opcode_table.json. Lengths and the pipe number are plain operands here, since a caller may ask
for any; R98's ranges are in WellFormed.lean, and building an ill-formed command raises a construction
error (60_exceptions.md R116 to R118).
-/

namespace Sys2Proof

/-- A command. -/
inductive Instr where
  /-- R_REGISTER R (R100). -/
  | rRegister (R : RegType)
  /-- W_REGISTER r, for a register value r of type R (R101). -/
  | wRegister (R : RegType) (r : RegValue R)
  /-- R_RX_PAYLOAD n (R102). -/
  | rRxPayload (n : Nat)
  /-- R_RX_PL_WID (R103). -/
  | rRxPlWid
  /-- W_TX_PAYLOAD p (R104). -/
  | wTxPayload (p : List Byte)
  /-- W_ACK_PAYLOAD pipe, p (R105). -/
  | wAckPayload (pipe : Nat) (p : List Byte)
  /-- W_TX_PAYLOAD_NOACK p (R106). -/
  | wTxPayloadNoack (p : List Byte)
  /-- FLUSH_TX (R108). -/
  | flushTx
  /-- FLUSH_RX (R109). -/
  | flushRx
  /-- REUSE_TX_PL (R110). -/
  | reuseTxPl
  /-- NOP (R111). -/
  | nop
  /-- ACTIVATE (R112). -/
  | activate
deriving DecidableEq, Repr

end Sys2Proof
end

