-- ==== Sys2Proof/Machine/Operands.lean ====
section
/-!
DEFINITION. The operand forms of a frame (30_encoding.md R63 to R67) and the checks made when a
command is built (60_exceptions.md R116 to R118, R124).
-/

namespace Sys2Proof.Machine

/-- `zeros(n)`: n copies of PAD_BYTE (00_scope.md R7). -/
def zeros (n : Nat) : List Byte := List.replicate n Config.padByte

/-- `order(p)`: payload bytes as given, or reversed (20_memory.md R50). -/
def order (o : PayloadOrder) (p : List Byte) : List Byte :=
  match o with
  | .preserve => p
  | .reverse => p.reverse

/-- A REG-form opcode: `template | R.ADDRESS` (R64). -/
def regOpcode (template : Byte) (R : RegType) : Byte := template ||| R.address

/-- A PIPE-form opcode: `template | pipe` (R65). -/
def pipeOpcode (template : Byte) (pipe : Nat) : Byte := template ||| BitVec.ofNat 8 pipe

/-- The length check of a payload write command (R116). -/
def payloadError (kind : CommandKind) (p : List Byte) : Option ConstructionError :=
  if p.length = 0 ∨ p.length > Config.maxPayload then
    some (.payloadLengthOutOfRange kind p.length)
  else none

/-- The length check of R_RX_PAYLOAD (R117). -/
def readLengthError (n : Nat) : Option ConstructionError :=
  if n = 0 ∨ n > Config.maxPayload then some (.readLengthOutOfRange n) else none

/-- The checks of W_ACK_PAYLOAD: the pipe before the length (R118, R124). -/
def ackError (pipe : Nat) (p : List Byte) : Option ConstructionError :=
  if pipe > Config.maxPipe then some (.invalidPipe pipe) else payloadError .wAckPayload p

/-- The error that building a command raises, if any. -/
def commandError : Instr → Option ConstructionError
  | .rRegister _ => none
  | .wRegister _ _ => none
  | .rRxPayload n => readLengthError n
  | .rRxPlWid => none
  | .wTxPayload p => payloadError .wTxPayload p
  | .wAckPayload pipe p => ackError pipe p
  | .wTxPayloadNoack p => payloadError .wTxPayloadNoack p
  | .flushTx => none
  | .flushRx => none
  | .reuseTxPl => none
  | .nop => none
  | .activate => none

end Sys2Proof.Machine
end

