-- ==== Sys2Proof/WellFormed.lean ====
section
/-!
DEFINITION. Which commands are values of R98's type: the ranges of its operands. Register values need
no check: RegValue holds only values of their slots' types (10_state.md R22).
-/

namespace Sys2Proof

/-- A payload or read length is in MIN_PAYLOAD..MAX_PAYLOAD (R5, R98). -/
abbrev lengthInRange (n : Nat) : Prop := Config.minPayload ≤ n ∧ n ≤ Config.maxPayload

/-- The operand ranges of R98. -/
def Instr.wellFormed : Instr → Bool
  | .rRegister _ => true
  | .wRegister _ _ => true
  | .rRxPayload n => decide (lengthInRange n)
  | .rRxPlWid => true
  | .wTxPayload p => decide (lengthInRange p.length)
  | .wAckPayload pipe p => decide (pipe ≤ Config.maxPipe) && decide (lengthInRange p.length)
  | .wTxPayloadNoack p => decide (lengthInRange p.length)
  | .flushTx => true
  | .flushRx => true
  | .reuseTxPl => true
  | .nop => true
  | .activate => true

end Sys2Proof
end

