-- ==== Sys2Proof/Decode.lean ====
section
/-!
DEFINITION. The opcode map and the frame decoder (30_encoding.md R63, R69 to R72), total on any bytes,
and the encoder written from the same map and the operand forms of R67. The meanings of the commands
(Machine/RegisterCommands.lean and its neighbours) are written from the rules R100 to R112 instead;
that the two agree is a statement of its own.
-/

namespace Sys2Proof

open Machine

/-- The fixed bits of each opcode (R69; the "match" column of opcode_table.json). -/
def CommandKind.template : CommandKind → Byte
  | .rRegister => 0b000_00000
  | .wRegister => 0b001_00000
  | .rRxPayload => 0b0110_0001
  | .rRxPlWid => 0b0110_0000
  | .wTxPayload => 0b1010_0000
  | .wAckPayload => 0b10101_000
  | .wTxPayloadNoack => 0b1011_0000
  | .flushTx => 0b1110_0001
  | .flushRx => 0b1110_0010
  | .reuseTxPl => 0b1110_0011
  | .nop => 0b1111_1111
  | .activate => 0b0101_0000

/-- Which opcode bits the template fixes: 7:5 in the REG form, 7:3 in the PIPE form, all in the FIXED
form (R63; the "mask" column of opcode_table.json). -/
def CommandKind.mask : CommandKind → Byte
  | .rRegister => 0xE0
  | .wRegister => 0xE0
  | .wAckPayload => 0xF8
  | .rRxPayload | .rRxPlWid | .wTxPayload | .wTxPayloadNoack | .flushTx | .flushRx | .reuseTxPl
  | .nop | .activate => 0xFF

/-- The 12 kinds, in the order of opcode_table.json. -/
def CommandKind.all : List CommandKind :=
  [.rRegister, .wRegister, .rRxPayload, .rRxPlWid, .wTxPayload, .wAckPayload, .wTxPayloadNoack,
   .flushTx, .flushRx, .reuseTxPl, .nop, .activate]

/-- Does an opcode byte match the row of this kind? (R72) -/
def CommandKind.fits (k : CommandKind) (op : Byte) : Bool := op &&& k.mask == k.template

/-- The kind whose row an opcode byte matches (R72). -/
def CommandKind.ofOpcode (op : Byte) : Option CommandKind :=
  CommandKind.all.find? fun k => k.fits op

/-- The register address of a REG-form opcode: its ADDR_BITS low bits, 4:0 (R5, R72). -/
def addressBits (op : Byte) : Byte := op &&& BitVec.ofNat 8 (2 ^ Config.addrBits - 1)

/-- The pipe number of a PIPE-form opcode: bits 2:0 (R72). -/
def pipeBits (op : Byte) : Nat := (op &&& 0x07).toNat

/-- Why bytes spell no command (R71, R72). The answer is the spec's; the reasons' names are the
model's (notes/assumptions/5.md). -/
inductive NoCommand where
  /-- There is no opcode byte. -/
  | emptyFrame
  /-- The opcode matches no row of R69. -/
  | undefinedOpcode (op : Byte)
  /-- A REG-form opcode with an address that has no register type (R43). -/
  | unassignedAddress (a : Byte)
  /-- A PIPE-form opcode with pipe 6 or 7. -/
  | unassignedPipe (pipe : Nat)
  /-- The number of data bytes is not one the command has (R68). -/
  | dataLength (kind : CommandKind) (len : Nat)
  /-- A padding byte that is not PAD_BYTE, or a constant byte that is not the command's (R67). -/
  | dataValue (kind : CommandKind)
  /-- The data bytes of W_REGISTER unpack to no register value. -/
  | registerValue (e : ConstructionError)
deriving DecidableEq, Repr

/-- Data bytes that must be exactly these. -/
def expectData (kind : CommandKind) (want data : List Byte) (i : Instr) : Except NoCommand Instr :=
  if data.length = want.length then
    if data = want then .ok i else .error (.dataValue kind)
  else .error (.dataLength kind data.length)

/-- Data bytes that must be a payload: MIN_PAYLOAD to MAX_PAYLOAD bytes, of any value. -/
def expectPayload (kind : CommandKind) (data : List Byte) (i : Instr) : Except NoCommand Instr :=
  if lengthInRange data.length then .ok i else .error (.dataLength kind data.length)

/-- The command of a frame whose opcode is of a given kind (R72). Since `order` undoes itself, the
payload of a payload frame is `order` of its data bytes. -/
def decodeData (o : PayloadOrder) (op : Byte) (data : List Byte) :
    CommandKind → Except NoCommand Instr
  | .rRegister =>
    match RegType.ofAddress (addressBits op) with
    | some R => expectData .rRegister (zeros R.width) data (.rRegister R)
    | none => .error (.unassignedAddress (addressBits op))
  | .wRegister =>
    match RegType.ofAddress (addressBits op) with
    | some R =>
      match RegValue.unpack R data with
      | .ok r => .ok (.wRegister R r)
      | .error e => .error (.registerValue e)
    | none => .error (.unassignedAddress (addressBits op))
  | .rRxPayload =>
    if lengthInRange data.length then
      expectData .rRxPayload (zeros data.length) data (.rRxPayload data.length)
    else .error (.dataLength .rRxPayload data.length)
  | .rRxPlWid => expectData .rRxPlWid (zeros 1) data .rRxPlWid
  | .wTxPayload => expectPayload .wTxPayload data (.wTxPayload (order o data))
  | .wAckPayload =>
    if pipeBits op ≤ Config.maxPipe then
      expectPayload .wAckPayload data (.wAckPayload (pipeBits op) (order o data))
    else .error (.unassignedPipe (pipeBits op))
  | .wTxPayloadNoack => expectPayload .wTxPayloadNoack data (.wTxPayloadNoack (order o data))
  | .flushTx => expectData .flushTx [] data .flushTx
  | .flushRx => expectData .flushRx [] data .flushRx
  | .reuseTxPl => expectData .reuseTxPl [] data .reuseTxPl
  | .nop => expectData .nop [] data .nop
  | .activate => expectData .activate [0x73] data .activate

/-- The command a frame spells, or why it spells none (R71, R72). -/
def decodeFrame (o : PayloadOrder) : List Byte → Except NoCommand Instr
  | [] => .error .emptyFrame
  | op :: data =>
    match CommandKind.ofOpcode op with
    | some k => decodeData o op data k
    | none => .error (.undefinedOpcode op)

/-- The kind of a command. -/
def Instr.kind : Instr → CommandKind
  | .rRegister _ => .rRegister
  | .wRegister _ _ => .wRegister
  | .rRxPayload _ => .rRxPayload
  | .rRxPlWid => .rRxPlWid
  | .wTxPayload _ => .wTxPayload
  | .wAckPayload _ _ => .wAckPayload
  | .wTxPayloadNoack _ => .wTxPayloadNoack
  | .flushTx => .flushTx
  | .flushRx => .flushRx
  | .reuseTxPl => .reuseTxPl
  | .nop => .nop
  | .activate => .activate

/-- The operand bits of a command's opcode: a register address, a pipe number, or none (R63). -/
def Instr.operandBits : Instr → Byte
  | .rRegister R => R.address
  | .wRegister R _ => R.address
  | .wAckPayload pipe _ => BitVec.ofNat 8 pipe
  | .rRxPayload _ | .rRxPlWid | .wTxPayload _ | .wTxPayloadNoack _ | .flushTx | .flushRx
  | .reuseTxPl | .nop | .activate => 0

/-- The data bytes of a command, by the operand forms of R67. -/
def Instr.dataBytes (o : PayloadOrder) : Instr → List Byte
  | .rRegister R => zeros R.width
  | .wRegister _ r => r.pack
  | .rRxPayload n => zeros n
  | .rRxPlWid => zeros 1
  | .wTxPayload p => order o p
  | .wAckPayload _ p => order o p
  | .wTxPayloadNoack p => order o p
  | .flushTx => []
  | .flushRx => []
  | .reuseTxPl => []
  | .nop => []
  | .activate => [0x73]

/-- The frame of a well-formed command, from the opcode map and the operand forms (R63 to R69). -/
def encode (o : PayloadOrder) (i : Instr) : Frame :=
  (i.kind.template ||| i.operandBits) :: i.dataBytes o

/-- The bytes of a table word of `nbits` bits: bit 0 is the least significant bit of the first byte. -/
def bytesOfWord (nbits w : Nat) : List Byte :=
  (List.range ((nbits + 7) / 8)).map fun i => BitVec.ofNat 8 (w >>> (8 * i))

/-- The data bytes of the shortest frame an opcode can have, every operand byte 0: the opcode table
gives a row its opcode byte only (notes/assumptions/6.md). -/
def shortestData (op : Byte) : List Byte :=
  match CommandKind.ofOpcode op with
  | some .rRegister | some .wRegister =>
    match RegType.ofAddress (addressBits op) with
    | some R => zeros R.width
    | none => []
  | some .rRxPayload | some .rRxPlWid | some .wTxPayload | some .wAckPayload
  | some .wTxPayloadNoack => zeros 1
  | some .activate => [0x73]
  | some .flushTx | some .flushRx | some .reuseTxPl | some .nop | none => []

/-- A table word as a frame: its own bytes, then what the shortest frame of its opcode has beyond
them. -/
def tableFrame (nbits w : Nat) : Frame :=
  match bytesOfWord nbits w with
  | [] => []
  | op :: data => op :: (data ++ (shortestData op).drop data.length)

/-- The host's question: the command the decoder reads from a table word, under the default payload
order. -/
def decodeTableWord (nbits w : Nat) : Option Instr :=
  match decodeFrame Config.defaultPayloadOrder (tableFrame nbits w) with
  | .ok i => some i
  | .error _ => none

end Sys2Proof
end

