-- ==== Sys2Proof/Machine/Program.lean ====
section
/-!
DEFINITION. Command lines and programs (30_encoding.md R74, R76), and building them
(60_exceptions.md R122, R127).
-/

namespace Sys2Proof.Machine

/-- One command line. `writeRegister` is the syntax's `W_REGISTER R { slot = value, ... }`; every
other line is a command with its operands. -/
inductive Line where
  | command (c : Instr)
  | writeRegister (R : RegType) (assigns : List (Assign R))
deriving DecidableEq, Repr

/-- "A slot may be assigned at most once per line" (R74). -/
def Line.slotsOnce : Line → Bool
  | .command _ => true
  | .writeRegister _ assigns => decide (assigns.map Assign.slot).Nodup

/-- The command of a line, or the error its construction raises. The register value of a W_REGISTER
line is `with_defaults()` with each assignment applied in turn (R74). -/
def buildLine : Line → Except ConstructionError Instr
  | .command c =>
    match commandError c with
    | some e => .error e
    | none => .ok c
  | .writeRegister R assigns =>
    match (RegValue.withDefaults R).withSlots assigns with
    | .ok r => .ok (.wRegister R r)
    | .error e => .error e

/-- The commands of a program, or the error of its first failing line (R127, P4). -/
def buildProgram : List Line → Except ConstructionError (List Instr)
  | [] => .ok []
  | l :: ls =>
    match buildLine l with
    | .error e => .error e
    | .ok c =>
      match buildProgram ls with
      | .ok cs => .ok (c :: cs)
      | .error e => .error e

end Sys2Proof.Machine
end

