-- ==== Sys2Proof/Machine/State.lean ====
section
/-!
DEFINITION. The state. The spec gives the block none (10_state.md R15 to R18, R44): what stands here
is the one open parameter, and the block's two sides, what callers have presented and what has been
handed out.
-/

namespace Sys2Proof.Machine

/-- One thing a caller presents to the block. -/
inductive Presented where
  /-- A command to build and encode (R16, R98). -/
  | command (c : Instr)
  /-- A program, built as a whole before any of it is encoded (R76, R127). -/
  | program (lines : List Line)
  /-- A program as text in the syntax of R74. -/
  | text (source : List Char)
  /-- A frame, for the decoder of R72 to read a command from. -/
  | frame (bytes : List Byte)
deriving DecidableEq, Repr

/-- The state. -/
structure State where
  /-- The parameter `PAYLOAD_ORDER` (R5); no step changes it (R51). -/
  payloadOrder : PayloadOrder
  /-- What callers have presented and the block has not yet taken, oldest first (R16). -/
  pending : List Presented
  /-- The frames handed to the transport, oldest first: one element per bus transaction (R8, R47). -/
  frames : List Frame
  /-- The construction errors returned to callers, oldest first (R122, R125). -/
  errors : List ConstructionError
deriving DecidableEq, Repr

/-- The block has no run-time faults (R113; 93_implementation_defined.md part 1: "`fault` and `stuck`
are not used"), so no constructor: nobody raises a fault, and by its type no step can end in one. -/
inductive Fault where
deriving DecidableEq, Repr

/-- Why a step answers with a refusal. -/
inductive Refusal where
  /-- Raised by no one now: an instruction without a meaning would be refused so. Safe. -/
  | notModelled (mnemonic : String)
  /-- Raised when the next presented thing is a frame that spells no command (R71). Safe: the spec
  gives such bytes no meaning. -/
  | spellsNoCommand (why : NoCommand)
  /-- Raised when the next presented text is not in the syntax of R74. Safe: it is no program. -/
  | notInSyntax
  /-- Raised when a line of the next presented program assigns one slot twice, which R74 forbids.
  Safe: it is no program. -/
  | slotAssignedTwice
deriving DecidableEq, Repr

/-- The block before its first encoding: the default payload order, nothing presented, nothing handed
out (R134, R137). -/
def State.reset : State where
  payloadOrder := Config.defaultPayloadOrder
  pending := []
  frames := []
  errors := []

/-- What a step answers. -/
abbrev Answer := Host.Outcome State Fault Refusal

end Sys2Proof.Machine
end

