-- ==== Sys2Proof/Machine/Ops.lean ====
section
/-!
DEFINITION. The shared operations over the state: its updates, handing a frame to the transport,
returning a construction error to the caller, and taking a program.
-/

namespace Sys2Proof.Machine

/-- The frame appended to those handed to the transport. -/
def State.addFrame (s : State) (f : Frame) : State := { s with frames := s.frames ++ [f] }

/-- The error appended to those returned to callers. -/
def State.addError (s : State) (e : ConstructionError) : State := { s with errors := s.errors ++ [e] }

/-- What callers have presented, replaced. -/
def State.setPending (s : State) (ps : List Presented) : State := { s with pending := ps }

/-- Things presented ahead of everything pending. -/
def State.present (s : State) (ps : List Presented) : State := s.setPending (ps ++ s.pending)

/-- `emit(frame)`: the frame goes to the transport, whole, after all earlier ones (R8, R56, R60). -/
def emit (f : Frame) (s : State) : Answer := .next (s.addFrame f)

/-- `raise ConstructionError(kind, info)`: the construction returns the error to its caller instead of
a value, no frame exists, and the caller may go on (R8, R122, R125, R126). This is all the block has in
place of taking an exception; there is nothing to return from (R126). -/
def raise (e : ConstructionError) (s : State) : Answer := .next (s.addError e)

/-- Building a command and encoding it: the error its construction raises, or else its frame (R9,
R56). -/
def construct (error : Option ConstructionError) (f : Frame) (s : State) : Answer :=
  match error with
  | some e => raise e s
  | none => emit f s

/-- Taking a program: refused as a whole when any line fails to build, else its commands stand next,
in the order of its lines (R76, R127). -/
def submit (lines : List Line) (s : State) : Answer :=
  if lines.all Line.slotsOnce then
    match buildProgram lines with
    | .error e => raise e s
    | .ok cs => .next (s.present (cs.map .command))
  else .refused .slotAssignedTwice

end Sys2Proof.Machine
end

