-- ==== Sys2Proof/Machine/ControlCommands.lean ====
section
/-!
DEFINITION. The control commands (44_control_commands.md R108 to R112).
-/

namespace Sys2Proof.Machine

/-- FLUSH_TX: `[0xE1]` (R108). -/
def execFlushTx (s : State) : Answer := emit [0xE1] s

/-- FLUSH_RX: `[0xE2]` (R109). -/
def execFlushRx (s : State) : Answer := emit [0xE2] s

/-- REUSE_TX_PL: `[0xE3]` (R110). -/
def execReuseTxPl (s : State) : Answer := emit [0xE3] s

/-- NOP: `[0xFF]` (R111). -/
def execNop (s : State) : Answer := emit [0xFF] s

/-- ACTIVATE: `[0x50, 0x73]` (R112). -/
def execActivate (s : State) : Answer := emit [0x50, 0x73] s

end Sys2Proof.Machine
end

