-- ==== Sys2Proof/Machine/PayloadCommands.lean ====
section
/-!
DEFINITION. The payload commands (43_payload_commands.md R102 to R106).
-/

namespace Sys2Proof.Machine

/-- R_RX_PAYLOAD n: `[0x61] ++ zeros(n)` (R102); n outside 1..32 raises ReadLengthOutOfRange (R117). -/
def execRRxPayload (n : Nat) (s : State) : Answer :=
  construct (readLengthError n) (0x61 :: zeros n) s

/-- R_RX_PL_WID: `[0x60] ++ zeros(1)` (R103). -/
def execRRxPlWid (s : State) : Answer :=
  emit (0x60 :: zeros 1) s

/-- W_TX_PAYLOAD p: `[0xA0] ++ order(p)` (R104); a length outside 1..32 raises
PayloadLengthOutOfRange (R116). -/
def execWTxPayload (p : List Byte) (s : State) : Answer :=
  construct (payloadError .wTxPayload p) (0xA0 :: order s.payloadOrder p) s

/-- W_ACK_PAYLOAD pipe, p: `[0xA8 | pipe] ++ order(p)` (R105); a pipe above 5 raises InvalidPipe, then
a length outside 1..32 raises PayloadLengthOutOfRange (R116, R118, R124). -/
def execWAckPayload (pipe : Nat) (p : List Byte) (s : State) : Answer :=
  construct (ackError pipe p) (pipeOpcode 0xA8 pipe :: order s.payloadOrder p) s

/-- W_TX_PAYLOAD_NOACK p: `[0xB0] ++ order(p)` (R106); a length outside 1..32 raises
PayloadLengthOutOfRange (R116). -/
def execWTxPayloadNoack (p : List Byte) (s : State) : Answer :=
  construct (payloadError .wTxPayloadNoack p) (0xB0 :: order s.payloadOrder p) s

end Sys2Proof.Machine
end

