-- ==== Sys2Proof/Machine/RegisterCommands.lean ====
section
/-!
DEFINITION. The register commands (42_register_commands.md R100, R101).
-/

namespace Sys2Proof.Machine

/-- R_REGISTER R: `[0x00 | R.ADDRESS] ++ zeros(R.WIDTH)` (R100). -/
def execRRegister (R : RegType) (s : State) : Answer :=
  emit (regOpcode 0x00 R :: zeros R.width) s

/-- W_REGISTER r: `[0x20 | R.ADDRESS] ++ pack(r)` (R101). Every register type and every value is
accepted, whatever access the chip gives (10_state.md R42). -/
def execWRegister (R : RegType) (r : RegValue R) (s : State) : Answer :=
  emit (regOpcode 0x20 R :: r.pack) s

end Sys2Proof.Machine
end

