-- ==== Sys2Proof/Machine/Dispatch.lean ====
section
/-!
DEFINITION. `encode(c)` dispatches on the constructor of `c` to exactly one of the rules R100 to R112
(42_register_commands.md R99).
-/

namespace Sys2Proof.Machine

/-- One command, built and encoded. -/
def exec (i : Instr) (s : State) : Host.Outcome State Fault Refusal :=
  match i with
  | .rRegister R => Sys2Proof.Machine.execRRegister R s
  | .wRegister R r => Sys2Proof.Machine.execWRegister R r s
  | .rRxPayload n => Sys2Proof.Machine.execRRxPayload n s
  | .rRxPlWid => Sys2Proof.Machine.execRRxPlWid s
  | .wTxPayload p => Sys2Proof.Machine.execWTxPayload p s
  | .wAckPayload pipe p => Sys2Proof.Machine.execWAckPayload pipe p s
  | .wTxPayloadNoack p => Sys2Proof.Machine.execWTxPayloadNoack p s
  | .flushTx => Sys2Proof.Machine.execFlushTx s
  | .flushRx => Sys2Proof.Machine.execFlushRx s
  | .reuseTxPl => Sys2Proof.Machine.execReuseTxPl s
  | .nop => Sys2Proof.Machine.execNop s
  | .activate => Sys2Proof.Machine.execActivate s

end Sys2Proof.Machine
end

