-- ==== Sys2Proof/Machine/Assembler.lean ====
section
/-!
DEFINITION. The assembler: text in the syntax of 30_encoding.md R74 read as a program (R76). Lexical
points the rule leaves open are in notes/assumptions/11.md.
-/

namespace Sys2Proof

/-- The name of a register type (10_state.md section 3). -/
def RegType.name : RegType → String
  | .config => "Config"
  | .enAa => "EnAa"
  | .enRxaddr => "EnRxaddr"
  | .setupAw => "SetupAw"
  | .setupRetr => "SetupRetr"
  | .rfCh => "RfCh"
  | .rfSetup => "RfSetup"
  | .status => "Status"
  | .observeTx => "ObserveTx"
  | .rpd => "Rpd"
  | .rxAddrP0 => "RxAddrP0"
  | .rxAddrP1 => "RxAddrP1"
  | .rxAddrP2 => "RxAddrP2"
  | .rxAddrP3 => "RxAddrP3"
  | .rxAddrP4 => "RxAddrP4"
  | .rxAddrP5 => "RxAddrP5"
  | .txAddr => "TxAddr"
  | .rxPwP0 => "RxPwP0"
  | .rxPwP1 => "RxPwP1"
  | .rxPwP2 => "RxPwP2"
  | .rxPwP3 => "RxPwP3"
  | .rxPwP4 => "RxPwP4"
  | .rxPwP5 => "RxPwP5"
  | .fifoStatus => "FifoStatus"
  | .dynpd => "Dynpd"
  | .feature => "Feature"

/-- The name of a `bool` slot (R23 to R38). -/
def BoolSlot.name : {R : RegType} → BoolSlot R → String
  | _, .maskRxDr => "mask_rx_dr"
  | _, .maskTxDs => "mask_tx_ds"
  | _, .maskMaxRt => "mask_max_rt"
  | _, .enCrc => "en_crc"
  | _, .pwrUp => "pwr_up"
  | _, .primRx => "prim_rx"
  | _, .enaaP0 => "enaa_p0"
  | _, .enaaP1 => "enaa_p1"
  | _, .enaaP2 => "enaa_p2"
  | _, .enaaP3 => "enaa_p3"
  | _, .enaaP4 => "enaa_p4"
  | _, .enaaP5 => "enaa_p5"
  | _, .erxP0 => "erx_p0"
  | _, .erxP1 => "erx_p1"
  | _, .erxP2 => "erx_p2"
  | _, .erxP3 => "erx_p3"
  | _, .erxP4 => "erx_p4"
  | _, .erxP5 => "erx_p5"
  | _, .contWave => "cont_wave"
  | _, .rxDr => "rx_dr"
  | _, .txDs => "tx_ds"
  | _, .maxRt => "max_rt"
  | _, .txFull => "tx_full"
  | _, .rpd => "rpd"
  | _, .txReuse => "tx_reuse"
  | _, .fifoTxFull => "tx_full"
  | _, .txEmpty => "tx_empty"
  | _, .rxFull => "rx_full"
  | _, .rxEmpty => "rx_empty"
  | _, .dplP0 => "dpl_p0"
  | _, .dplP1 => "dpl_p1"
  | _, .dplP2 => "dpl_p2"
  | _, .dplP3 => "dpl_p3"
  | _, .dplP4 => "dpl_p4"
  | _, .dplP5 => "dpl_p5"
  | _, .enDpl => "en_dpl"
  | _, .enAckPay => "en_ack_pay"
  | _, .enDynAck => "en_dyn_ack"

/-- The name of a `raw N` slot (R27 to R35). -/
def RawSlot.name : {R : RegType} → RawSlot R → String
  | _, .arc => "arc"
  | _, .rfCh => "rf_ch"
  | _, .rxPNo => "rx_p_no"
  | _, .plosCnt => "plos_cnt"
  | _, .arcCnt => "arc_cnt"
  | _, .rxAddrP0 => "rx_addr_p0"
  | _, .rxAddrP1 => "rx_addr_p1"
  | _, .rxAddrP2 => "rx_addr_p2"
  | _, .rxAddrP3 => "rx_addr_p3"
  | _, .rxAddrP4 => "rx_addr_p4"
  | _, .rxAddrP5 => "rx_addr_p5"
  | _, .txAddr => "tx_addr"
  | _, .rxPwP0 => "rx_pw_p0"
  | _, .rxPwP1 => "rx_pw_p1"
  | _, .rxPwP2 => "rx_pw_p2"
  | _, .rxPwP3 => "rx_pw_p3"
  | _, .rxPwP4 => "rx_pw_p4"
  | _, .rxPwP5 => "rx_pw_p5"

/-- The name of a slot (R19). -/
def Slot.name : {R : RegType} → Slot R → String
  | _, .bool s => s.name
  | _, .raw s => s.name
  | _, .crco => "crco"
  | _, .aw => "aw"
  | _, .ard => "ard"
  | _, .rfDr => "rf_dr"
  | _, .rfPwr => "rf_pwr"

namespace Machine

/-- The enumerant a word names, from a list of names. -/
def pick {α : Type} (names : List (String × α)) (w : List Char) : Option α :=
  match names with
  | [] => none
  | (n, a) :: rest => if n.toList = w then some a else pick rest w

/-- The register type a word names. -/
def regTypeOf (w : List Char) : Option RegType :=
  pick (RegType.all.map fun R => (R.name, R)) w

/-- The non-reserved slot of R that a word names. -/
def slotOf (R : RegType) (w : List Char) : Option (Slot R) :=
  pick ((layout R).filterMap fun d => d.slot.map fun s => (s.name, s)) w

/-- The words for a `bool` value. -/
def boolNames : List (String × Bool) := [("true", true), ("false", false)]

/-- The enumerants of R79. -/
def crcNames : List (String × CrcEncodingScheme) := [("OneByte", .oneByte), ("TwoBytes", .twoBytes)]

/-- The enumerants of R80. -/
def awNames : List (String × AddressWidth) :=
  [("Bytes3", .bytes3), ("Bytes4", .bytes4), ("Bytes5", .bytes5)]

/-- The enumerants of R81. -/
def ardNames : List (String × AutoRetransmitDelay) :=
  [("Us250", .us250), ("Us500", .us500), ("Us750", .us750), ("Us1000", .us1000),
   ("Us1250", .us1250), ("Us1500", .us1500), ("Us1750", .us1750), ("Us2000", .us2000),
   ("Us2250", .us2250), ("Us2500", .us2500), ("Us2750", .us2750), ("Us3000", .us3000),
   ("Us3250", .us3250), ("Us3500", .us3500), ("Us3750", .us3750), ("Us4000", .us4000)]

/-- The enumerants of R82. -/
def rateNames : List (String × DataRate) :=
  [("Mbps1", .mbps1), ("Mbps2", .mbps2), ("Kbps250", .kbps250)]

/-- The enumerants of R83. -/
def powerNames : List (String × RfPower) :=
  [("Neg18Dbm", .neg18Dbm), ("Neg12Dbm", .neg12Dbm), ("Neg6Dbm", .neg6Dbm), ("Dbm0", .dbm0)]

/-- A token of a line. -/
inductive Token where
  | word (cs : List Char)
  | lbrace
  | rbrace
  | lbracket
  | rbracket
  | comma
  | equals
deriving DecidableEq, Repr

/-- Letters, digits and the underscore make words. -/
def isWordChar (c : Char) : Bool := c.isAlphanum || c == '_'

/-- The token of a punctuation character. -/
def punctuation (c : Char) : Option Token :=
  if c.toNat = 0x7B then some .lbrace
  else if c.toNat = 0x7D then some .rbrace
  else if c = '[' then some .lbracket
  else if c = ']' then some .rbracket
  else if c = ',' then some .comma
  else if c = '=' then some .equals
  else none

/-- The word read so far (its characters last first), put before the tokens after it. -/
def endWord (acc : List Char) (rest : List Token) : List Token :=
  match acc with
  | [] => rest
  | _ :: _ => .word acc.reverse :: rest

/-- The tokens of a line; `;` starts a comment (R74). `acc` holds the word being read, last character
first. -/
def lexLine (acc : List Char) : List Char → Option (List Token)
  | [] => some (endWord acc [])
  | c :: cs =>
    if c = ';' then some (endWord acc [])
    else if isWordChar c then lexLine (c :: acc) cs
    else if c = ' ' ∨ c = '\t' ∨ c = '\r' then (lexLine [] cs).map (endWord acc)
    else
      match punctuation c with
      | some t => (lexLine [] cs).map fun ts => endWord acc (t :: ts)
      | none => none

/-- The value of a digit character. -/
def digitValue (c : Char) : Option Nat :=
  if '0' ≤ c ∧ c ≤ '9' then some (c.toNat - 48)
  else if 'a' ≤ c ∧ c ≤ 'f' then some (c.toNat - 87)
  else if 'A' ≤ c ∧ c ≤ 'F' then some (c.toNat - 55)
  else none

/-- Digits of a base after a value read so far. `_` carries no meaning (R6); that it may stand anywhere
after the first digit, last and doubled included (`1_`, `1__0`), is the model's choice, since R6 shows it
only between digits (DESIGN CHOICE, unsafe in principle: notes/assumptions/11.md). -/
def digits (base : Nat) (value : Nat) : List Char → Option Nat
  | [] => some value
  | c :: cs =>
    if c = '_' then digits base value cs
    else
      match digitValue c with
      | some d => if d < base then digits base (base * value + d) cs else none
      | none => none

/-- At least one digit, a digit and no `_` first (DESIGN CHOICE, safe: notes/assumptions/11.md). -/
def number (base : Nat) : List Char → Option Nat
  | [] => none
  | c :: cs => if c = '_' then none else digits base 0 (c :: cs)

/-- An integer: decimal, `0x` hexadecimal or `0b` binary (R74). -/
def integerOf : List Char → Option Nat
  | '0' :: 'x' :: cs => number 16 cs
  | '0' :: 'b' :: cs => number 2 cs
  | cs => number 10 cs

/-- A byte: an integer below 256. -/
def byteOf (w : List Char) : Option Byte :=
  match integerOf w with
  | some v => if v < 256 then some (BitVec.ofNat 8 v) else none
  | none => none

/-- `byte , byte , ... ]`, to the end of the line. -/
def bytesTail : List Token → Option (List Byte)
  | [.word w, .rbracket] => (byteOf w).map fun b => [b]
  | .word w :: .comma :: rest =>
    match byteOf w, bytesTail rest with
    | some b, some bs => some (b :: bs)
    | _, _ => none
  | _ => none

/-- `[ byte , ... ]`; `[]` is read too, so that its length is refused when it is built (L2-5). -/
def bytesOf : List Token → Option (List Byte)
  | [.lbracket, .rbracket] => some []
  | .lbracket :: rest => bytesTail rest
  | _ => none

/-- `slot = value`, with a value of the slot's type (R74, R89). -/
def assignOf (R : RegType) (slot value : List Char) : Option (Assign R) :=
  match slotOf R slot with
  | none => none
  | some (.bool s) => (pick boolNames value).map fun v => .bool s v
  | some (.raw s) => (integerOf value).map fun v => .raw s v
  | some .crco => (pick crcNames value).map fun v => .crco v
  | some .aw => (pick awNames value).map fun v => .aw v
  | some .ard => (pick ardNames value).map fun v => .ard v
  | some .rfDr => (pick rateNames value).map fun v => .rfDr v
  | some .rfPwr => (pick powerNames value).map fun v => .rfPwr v

/-- `slot = value , ...` and the closing brace, to the end of the line. -/
def assignsTail (R : RegType) : List Token → Option (List (Assign R))
  | [.word s, .equals, .word v, .rbrace] => (assignOf R s v).map fun a => [a]
  | .word s :: .equals :: .word v :: .comma :: rest =>
    match assignOf R s v, assignsTail R rest with
    | some a, some as => some (a :: as)
    | _, _ => none
  | _ => none

/-- What follows `W_REGISTER R`: nothing, or assignments in braces. -/
def assignsOf (R : RegType) : List Token → Option (List (Assign R))
  | [] => some []
  | .lbrace :: rest => assignsTail R rest
  | _ => none

/-- The operands of R_REGISTER. -/
def parseRead : List Token → Option Line
  | [.word r] => (regTypeOf r).map fun R => .command (.rRegister R)
  | _ => none

/-- The operands of W_REGISTER. -/
def parseWrite : List Token → Option Line
  | .word r :: rest =>
    match regTypeOf r with
    | some R => (assignsOf R rest).map fun as => .writeRegister R as
    | none => none
  | _ => none

/-- The operand of R_RX_PAYLOAD. -/
def parseReadPayload : List Token → Option Line
  | [.word n] => (integerOf n).map fun n => .command (.rRxPayload n)
  | _ => none

/-- The operands of W_ACK_PAYLOAD. -/
def parseAck : List Token → Option Line
  | .word pipe :: .comma :: rest =>
    match integerOf pipe, bytesOf rest with
    | some n, some p => some (.command (.wAckPayload n p))
    | _, _ => none
  | _ => none

/-- A command without operands. -/
def parseBare (c : Instr) : List Token → Option Line
  | [] => some (.command c)
  | _ :: _ => none

/-- The reader of each mnemonic's operands (R74). -/
def mnemonics : List (String × (List Token → Option Line)) :=
  [("R_REGISTER", parseRead), ("W_REGISTER", parseWrite), ("R_RX_PAYLOAD", parseReadPayload),
   ("R_RX_PL_WID", parseBare .rRxPlWid),
   ("W_TX_PAYLOAD", fun ts => (bytesOf ts).map fun p => .command (.wTxPayload p)),
   ("W_ACK_PAYLOAD", parseAck),
   ("W_TX_PAYLOAD_NOACK", fun ts => (bytesOf ts).map fun p => .command (.wTxPayloadNoack p)),
   ("FLUSH_TX", parseBare .flushTx), ("FLUSH_RX", parseBare .flushRx),
   ("REUSE_TX_PL", parseBare .reuseTxPl), ("NOP", parseBare .nop), ("ACTIVATE", parseBare .activate)]

/-- One command line from its tokens. -/
def parseTokens : List Token → Option Line
  | .word m :: rest =>
    match pick mnemonics m with
    | some operands => operands rest
    | none => none
  | _ => none

/-- The lines of a text. `acc` holds the line being read, last character first. -/
def linesOf (acc : List Char) : List Char → List (List Char)
  | [] => [acc.reverse]
  | c :: cs => if c = '\n' then acc.reverse :: linesOf [] cs else linesOf (c :: acc) cs

/-- Lines read one by one; a line without tokens is blank and gives no command. -/
def parseLines : List (List Char) → Option (List Line)
  | [] => some []
  | l :: ls =>
    match lexLine [] l, parseLines ls with
    | some [], some rest => some rest
    | some (t :: ts), some rest => (parseTokens (t :: ts)).map fun line => line :: rest
    | _, _ => none

/-- A text read as a program: one command per line (R74, R76). -/
def parseProgram (source : List Char) : Option (List Line) := parseLines (linesOf [] source)

end Machine

end Sys2Proof
end

