-- ==== Sys2Proof/Machine/Fetch.lean ====
section
/-!
DEFINITION. Taking the oldest presented thing (10_state.md R16).
-/

namespace Sys2Proof.Machine

/-- What taking the oldest presented thing comes to: a command to run in the state that no longer
holds it, or an answer without one. -/
inductive Fetched where
  | run (i : Instr) (s : State)
  | done (a : Answer)

/-- Takes the oldest presented thing. With nothing presented the block does nothing (it never acts on
its own, R1, R129, R130). -/
def fetch (s : State) : Fetched :=
  match s.pending with
  | [] => .done (.next s)
  | .command i :: rest => .run i (s.setPending rest)
  | .frame bytes :: rest =>
    match decodeFrame s.payloadOrder bytes with
    | .ok i => .run i (s.setPending rest)
    | .error why => .done (.refused (.spellsNoCommand why))
  | .program lines :: rest => .done (submit lines (s.setPending rest))
  | .text source :: rest =>
    match parseProgram source with
    | some lines => .done (submit lines (s.setPending rest))
    | none => .done (.refused .notInSyntax)

/-- A table word stood where the next step takes its command from: its frame, ahead of everything
pending (notes/assumptions/7.md). -/
def placeWord (s : State) (nbits w : Nat) : State :=
  s.present [.frame (tableFrame nbits w)]

end Sys2Proof.Machine
end

