-- ==== Sys2Proof/Machine/Printer.lean ====
section
/-!
DEFINITION. Programs written out in the syntax of 30_encoding.md R74: one text for every command line,
its words taken from the grammar and from the tables of 40_field_model.md, not from the assembler's own
lists. The spacing is one of many the syntax allows (notes/assumptions/11.md).
-/

namespace Sys2Proof

/-- The mnemonic of a command (R69, R74). -/
def CommandKind.mnemonic : CommandKind → String
  | .rRegister => "R_REGISTER"
  | .wRegister => "W_REGISTER"
  | .rRxPayload => "R_RX_PAYLOAD"
  | .rRxPlWid => "R_RX_PL_WID"
  | .wTxPayload => "W_TX_PAYLOAD"
  | .wAckPayload => "W_ACK_PAYLOAD"
  | .wTxPayloadNoack => "W_TX_PAYLOAD_NOACK"
  | .flushTx => "FLUSH_TX"
  | .flushRx => "FLUSH_RX"
  | .reuseTxPl => "REUSE_TX_PL"
  | .nop => "NOP"
  | .activate => "ACTIVATE"

/-- The enumerants of R79. -/
def CrcEncodingScheme.name : CrcEncodingScheme → String
  | .oneByte => "OneByte"
  | .twoBytes => "TwoBytes"

/-- The enumerants of R80. -/
def AddressWidth.name : AddressWidth → String
  | .bytes3 => "Bytes3"
  | .bytes4 => "Bytes4"
  | .bytes5 => "Bytes5"

/-- The enumerants of R81. -/
def AutoRetransmitDelay.name : AutoRetransmitDelay → String
  | .us250 => "Us250"
  | .us500 => "Us500"
  | .us750 => "Us750"
  | .us1000 => "Us1000"
  | .us1250 => "Us1250"
  | .us1500 => "Us1500"
  | .us1750 => "Us1750"
  | .us2000 => "Us2000"
  | .us2250 => "Us2250"
  | .us2500 => "Us2500"
  | .us2750 => "Us2750"
  | .us3000 => "Us3000"
  | .us3250 => "Us3250"
  | .us3500 => "Us3500"
  | .us3750 => "Us3750"
  | .us4000 => "Us4000"

/-- The enumerants of R82. -/
def DataRate.name : DataRate → String
  | .mbps1 => "Mbps1"
  | .mbps2 => "Mbps2"
  | .kbps250 => "Kbps250"

/-- The enumerants of R83. -/
def RfPower.name : RfPower → String
  | .neg18Dbm => "Neg18Dbm"
  | .neg12Dbm => "Neg12Dbm"
  | .neg6Dbm => "Neg6Dbm"
  | .dbm0 => "Dbm0"

/-- The assignment that gives a slot the value it has in a register value. -/
def Slot.reading : {R : RegType} → Slot R → RegValue R → Assign R
  | _, .bool s, r => .bool s (r.getBool s)
  | _, .raw s, r => .raw s (r.getRaw s)
  | _, .crco, r => .crco r.getCrco
  | _, .aw, r => .aw r.getAw
  | _, .ard, r => .ard r.getArd
  | _, .rfDr, r => .rfDr r.getRfDr
  | _, .rfPwr, r => .rfPwr r.getRfPwr

/-- A register value as assignments of all its slots. -/
def RegValue.assigns {R : RegType} (r : RegValue R) : List (Assign R) :=
  (layout R).filterMap fun d => d.slot.map fun s => s.reading r

namespace Machine

/-- "Integers are decimal, `0x` hex or `0b` binary" (R74). -/
inductive IntegerForm where
  | decimal
  | hex
  | binary
deriving DecidableEq, Repr

/-- An integer written out. -/
def integerText (b : IntegerForm) (n : Nat) : List Char :=
  match b with
  | .decimal => Nat.toDigits 10 n
  | .hex => ['0', 'x'] ++ Nat.toDigits 16 n
  | .binary => ['0', 'b'] ++ Nat.toDigits 2 n

/-- Items between commas. -/
def separated : List (List Char) → List Char
  | [] => []
  | [x] => x
  | x :: y :: rest => x ++ [',', ' '] ++ separated (y :: rest)

/-- `"[" byte { "," byte } "]"`. -/
def bytesText (b : IntegerForm) (p : List Byte) : List Char :=
  '[' :: separated (p.map fun x => integerText b x.toNat) ++ [']']

/-- A value: `"true" | "false" | integer | enumerant`. -/
def valueText (b : IntegerForm) : {R : RegType} → Assign R → List Char
  | _, .bool _ true => "true".toList
  | _, .bool _ false => "false".toList
  | _, .raw _ v => integerText b v
  | _, .crco v => v.name.toList
  | _, .aw v => v.name.toList
  | _, .ard v => v.name.toList
  | _, .rfDr v => v.name.toList
  | _, .rfPwr v => v.name.toList

/-- `slot "=" value`. -/
def assignText (b : IntegerForm) {R : RegType} (a : Assign R) : List Char :=
  a.slot.name.toList ++ [' ', '=', ' '] ++ valueText b a

/-- `regtype [ "{" assign { "," assign } "}" ]`, the operands of W_REGISTER. -/
def registerText (b : IntegerForm) (R : RegType) (assigns : List (Assign R)) : List Char :=
  R.name.toList ++
    match assigns with
    | [] => []
    | a :: rest =>
      [' ', Char.ofNat 0x7B] ++ separated ((a :: rest).map (assignText b)) ++ [Char.ofNat 0x7D]

/-- A line as the syntax has it: W_REGISTER of a ready value assigns all the value's slots. -/
def Line.asWritten : Line → Line
  | .command (.wRegister R r) => .writeRegister R r.assigns
  | l => l

/-- The operands of a command, one arm per production of R74. -/
def operandsText (b : IntegerForm) : Instr → Option (List Char)
  | .rRegister R => some R.name.toList
  | .wRegister R r => some (registerText b R r.assigns)
  | .rRxPayload n => some (integerText b n)
  | .rRxPlWid => none
  | .wTxPayload p => some (bytesText b p)
  | .wAckPayload pipe p => some (integerText b pipe ++ [',', ' '] ++ bytesText b p)
  | .wTxPayloadNoack p => some (bytesText b p)
  | .flushTx => none
  | .flushRx => none
  | .reuseTxPl => none
  | .nop => none
  | .activate => none

/-- A mnemonic, and its operands if it has any. -/
def withOperands (mnemonic : String) : Option (List Char) → List Char
  | none => mnemonic.toList
  | some operands => mnemonic.toList ++ ' ' :: operands

/-- One command line written out. -/
def lineText (b : IntegerForm) : Line → List Char
  | .command c => withOperands c.kind.mnemonic (operandsText b c)
  | .writeRegister R assigns =>
    withOperands CommandKind.wRegister.mnemonic (some (registerText b R assigns))

/-- A program written out, one command per line. -/
def programText (b : IntegerForm) (lines : List Line) : List Char :=
  lines.flatMap fun l => lineText b l ++ ['\n']

end Machine

end Sys2Proof
end

