-- ==== Sys2Proof/Safety.lean ====
section
/-!
DEFINITION. What counts as a safe state of the block, in the terms the statements use.
-/

namespace Sys2Proof

open Machine

/-- A frame spells a command (30_encoding.md R71, R72). -/
def spells (o : PayloadOrder) (f : Frame) : Bool :=
  match decodeFrame o f with
  | .ok _ => true
  | .error _ => false

/-- Every frame handed to the transport spells a command: no "never produced" opcode, no wrong length,
no stray data byte has left the block (R70 to R72). -/
def Machine.State.framesSpell (s : State) : Bool := s.frames.all (spells s.payloadOrder)

/-- An error that a step may return to a caller, with its cause (60_exceptions.md R115 to R118). The
errors of `F::decode` and `unpack` are not among them: a caller's command or program line calls
neither. -/
def ConstructionError.hasCause : ConstructionError → Bool
  | .rawFieldOverflow _ s v n => n == s.width && decide (2 ^ n ≤ v)
  | .payloadLengthOutOfRange kind len =>
    (kind == .wTxPayload || kind == .wAckPayload || kind == .wTxPayloadNoack)
      && !decide (lengthInRange len)
  | .readLengthOutOfRange n => !decide (lengthInRange n)
  | .invalidPipe pipe => decide (Config.maxPipe < pipe)
  | .invalidCode _ _ => false
  | .wrongLength _ _ => false
  | .reservedBitSet _ _ => false

/-- Every error returned to a caller has its cause. -/
def Machine.State.errorsHaveCause (s : State) : Bool := s.errors.all ConstructionError.hasCause

/-- The value types of slots (10_state.md R19). -/
inductive ValueType where
  | bool
  | raw (n : Nat)
  | enum (F : FieldType)
  | reserved
deriving DecidableEq, Repr

/-- The value type of a slot. -/
def Slot.valueType : {R : RegType} → Slot R → ValueType
  | _, .bool _ => .bool
  | _, .raw s => .raw s.width
  | _, .crco => .enum .crcEncodingScheme
  | _, .aw => .enum .addressWidth
  | _, .ard => .enum .autoRetransmitDelay
  | _, .rfDr => .enum .dataRate
  | _, .rfPwr => .enum .rfPower

/-- A row of the field tables of R23 to R38; the default of a bool is 0 or 1, of an enumerant its
code. -/
structure FieldRow where
  name : String
  lowestBit : Nat
  bits : Nat
  valueType : ValueType
  default : Nat
deriving DecidableEq, Repr

/-- What R23 to R38 give of a register type, its fields from bit 0 upward. -/
structure RegisterRow where
  name : String
  address : Byte
  bytes : Nat
  defaultBytes : List Byte
  fields : List FieldRow
deriving DecidableEq, Repr

/-- The row of a slot of a layout. -/
def SlotDesc.row {R : RegType} (d : SlotDesc R) : FieldRow :=
  match d.slot with
  | some s => ⟨s.name, d.offset, d.width, s.valueType, (RegValue.withDefaults R).slotCode s⟩
  | none => ⟨"reserved", d.offset, d.width, .reserved, 0⟩

/-- The row of a register type. -/
def RegType.row (R : RegType) : RegisterRow :=
  ⟨R.name, R.address, R.width, (RegValue.withDefaults R).pack, (layout R).map SlotDesc.row⟩

/-- The error an offending slot gives, as R124 describes it: ReservedBitSet for a reserved slot with a
1 in it, InvalidCode for a code that is no AddressWidth (R80) or no DataRate (R82). The other slots
cannot offend. -/
def slotError {R : RegType} (v : BitVec 40) (d : SlotDesc R) : Option ConstructionError :=
  match d.slot with
  | none => if bitsAt v d.offset d.width ≠ 0 then some (.reservedBitSet R d.offset) else none
  | some .aw =>
    if bitsAt v d.offset d.width = 0 then some (.invalidCode .addressWidth 0) else none
  | some .rfDr =>
    if bitsAt v d.offset d.width ∈ [0, 1, 4] then none
    else some (.invalidCode .dataRate (bitsAt v d.offset d.width))
  | some (.bool _) | some (.raw _) | some .crco | some .ard | some .rfPwr => none

/-- The classification of all 256 opcodes (30_encoding.md R70): the kind of a "produced" opcode, none
for a "never produced" one. -/
def producedKind (op : Byte) : Option CommandKind :=
  let n := op.toNat
  if n ≤ 0x17 ∨ n = 0x1C ∨ n = 0x1D then some .rRegister
  else if (0x20 ≤ n ∧ n ≤ 0x37) ∨ n = 0x3C ∨ n = 0x3D then some .wRegister
  else if n = 0x50 then some .activate
  else if n = 0x60 then some .rRxPlWid
  else if n = 0x61 then some .rRxPayload
  else if n = 0xA0 then some .wTxPayload
  else if 0xA8 ≤ n ∧ n ≤ 0xAD then some .wAckPayload
  else if n = 0xB0 then some .wTxPayloadNoack
  else if n = 0xE1 then some .flushTx
  else if n = 0xE2 then some .flushRx
  else if n = 0xE3 then some .reuseTxPl
  else if n = 0xFF then some .nop
  else none

/-- The frame length of a command (30_encoding.md R68). -/
def Instr.frameLength : Instr → Nat
  | .rRegister R => 1 + R.width
  | .wRegister R _ => 1 + R.width
  | .rRxPayload n => 1 + n
  | .wTxPayload p => 1 + p.length
  | .wAckPayload _ p => 1 + p.length
  | .wTxPayloadNoack p => 1 + p.length
  | .rRxPlWid => 2
  | .activate => 2
  | .flushTx => 1
  | .flushRx => 1
  | .reuseTxPl => 1
  | .nop => 1

end Sys2Proof
end

