-- ==== Sys2Proof/Certificates/Slice0/Obligations.lean ====
section
/-!
DEFINITION. The statements for the provers. Each docstring names the rule of spec/ it formalises. The
lists `frames`, `errors` and `pending` of State are the model's record of what is handed to the
transport, returned to callers and presented by them (notes/assumptions/2.md to 4.md).
-/

open Sys2Proof Sys2Proof.Machine

/-! ## The Field Model -/

/-- R79 to R83: the code of every enumerant, and which codes are valid. -/
def Obligations.FieldCodesFollowTheTables : Prop :=
  ([CrcEncodingScheme.oneByte, .twoBytes].map CrcEncodingScheme.code = [0, 1] ∧
    ∀ c, ∃ e : CrcEncodingScheme, e.code = c) ∧
  ([AddressWidth.bytes3, .bytes4, .bytes5].map AddressWidth.code = [0b01, 0b10, 0b11] ∧
    ∀ c, (∃ e : AddressWidth, e.code = c) ↔ c ≠ 0b00) ∧
  (([.us250, .us500, .us750, .us1000, .us1250, .us1500, .us1750, .us2000, .us2250, .us2500,
      .us2750, .us3000, .us3250, .us3500, .us3750, .us4000].map fun e : AutoRetransmitDelay =>
        250 * (e.code.toNat + 1)) =
      [250, 500, 750, 1000, 1250, 1500, 1750, 2000, 2250, 2500, 2750, 3000, 3250, 3500, 3750, 4000] ∧
    ∀ c, ∃ e : AutoRetransmitDelay, e.code = c) ∧
  ([DataRate.mbps1, .mbps2, .kbps250].map DataRate.code = [0b000, 0b001, 0b100] ∧
    ∀ c, (∃ e : DataRate, e.code = c) ↔ c = 0b000 ∨ c = 0b001 ∨ c = 0b100) ∧
  ([RfPower.neg18Dbm, .neg12Dbm, .neg6Dbm, .dbm0].map RfPower.code = [0b00, 0b01, 0b10, 0b11] ∧
    ∀ c, ∃ e : RfPower, e.code = c)

/-- R86: `F::decode` returns the unique enumerant of a valid code. For AddressWidth and DataRate every
other code raises InvalidCode; the other three Field types have no other code and never raise it. -/
def Obligations.FieldDecodeInvertsTheCodes : Prop :=
  ((∀ e c, CrcEncodingScheme.code e = c → CrcEncodingScheme.decode c = .ok e) ∧
    ∀ c, ∃ e, CrcEncodingScheme.decode c = .ok e ∧ e.code = c) ∧
  ((∀ e c, AddressWidth.code e = c → AddressWidth.decode c = .ok e) ∧
    ∀ c, (∀ e, AddressWidth.code e ≠ c) →
      AddressWidth.decode c = .error (.invalidCode .addressWidth c.toNat)) ∧
  ((∀ e c, AutoRetransmitDelay.code e = c → AutoRetransmitDelay.decode c = .ok e) ∧
    ∀ c, ∃ e, AutoRetransmitDelay.decode c = .ok e ∧ e.code = c) ∧
  ((∀ e c, DataRate.code e = c → DataRate.decode c = .ok e) ∧
    ∀ c, (∀ e, DataRate.code e ≠ c) →
      DataRate.decode c = .error (.invalidCode .dataRate c.toNat)) ∧
  ((∀ e c, RfPower.code e = c → RfPower.decode c = .ok e) ∧
    ∀ c, ∃ e, RfPower.decode c = .ok e ∧ e.code = c)

/-! ## The Register Model -/

/-- R93, R94: the address and the width of all 26 register types. -/
def Obligations.RegisterMapAddressesAndWidths : Prop :=
  (∀ R, R ∈ RegType.all) ∧
  (RegType.all.map fun R => (R.address, R.width)) =
    [(0x00, 1), (0x01, 1), (0x02, 1), (0x03, 1), (0x04, 1), (0x05, 1), (0x06, 1), (0x07, 1),
     (0x08, 1), (0x09, 1), (0x0A, 5), (0x0B, 5), (0x0C, 1), (0x0D, 1), (0x0E, 1), (0x0F, 1),
     (0x10, 5), (0x11, 1), (0x12, 1), (0x13, 1), (0x14, 1), (0x15, 1), (0x16, 1), (0x17, 1),
     (0x1C, 1), (0x1D, 1)]

/-- Register addresses are five-bit values, and each identifies its type (10_state.md section 4). -/
def Obligations.RegisterAddressesIdentifyTypes : Prop :=
  ∀ R : RegType, R.address < 32 ∧ RegType.ofAddress R.address = some R ∧
    ∀ R', R'.address = R.address → R' = R

/-- R43: six addresses have no register type, and no register command names one of them. -/
def Obligations.UnassignedAddressesCannotBeNamed : Prop :=
  ∀ a : Byte, a ∈ [0x18, 0x19, 0x1A, 0x1B, 0x1E, 0x1F] →
    RegType.ofAddress a = none ∧ (∀ R : RegType, R.address ≠ a) ∧
    (∀ o R, (encode o (.rRegister R)).head? ≠ some a) ∧
    (∀ o R r, (encode o (.wRegister R r)).head? ≠ some (0x20 ||| a))

/-- R23 to R32: name, address, width, default packed byte and the whole field table (name, lowest bit,
width, value type and default of every slot) of the ten register types at 0x00 to 0x09; the CONFIG
example of R23; and the 5-byte width of the three address registers, which AW does not change (R26). -/
def Obligations.LayoutsFollowTheFieldTables : Prop :=
  ([RegType.config, .enAa, .enRxaddr, .setupAw, .setupRetr, .rfCh, .rfSetup, .status, .observeTx, .rpd].map
      RegType.row =
    [⟨"Config", 0x00, 1, [0x08],
      [⟨"prim_rx", 0, 1, .bool, 0⟩, ⟨"pwr_up", 1, 1, .bool, 0⟩,
       ⟨"crco", 2, 1, .enum .crcEncodingScheme, 0⟩, ⟨"en_crc", 3, 1, .bool, 1⟩,
       ⟨"mask_max_rt", 4, 1, .bool, 0⟩, ⟨"mask_tx_ds", 5, 1, .bool, 0⟩,
       ⟨"mask_rx_dr", 6, 1, .bool, 0⟩, ⟨"reserved", 7, 1, .reserved, 0⟩]⟩,
     ⟨"EnAa", 0x01, 1, [0x3F],
      [⟨"enaa_p0", 0, 1, .bool, 1⟩, ⟨"enaa_p1", 1, 1, .bool, 1⟩, ⟨"enaa_p2", 2, 1, .bool, 1⟩,
       ⟨"enaa_p3", 3, 1, .bool, 1⟩, ⟨"enaa_p4", 4, 1, .bool, 1⟩, ⟨"enaa_p5", 5, 1, .bool, 1⟩,
       ⟨"reserved", 6, 2, .reserved, 0⟩]⟩,
     ⟨"EnRxaddr", 0x02, 1, [0x03],
      [⟨"erx_p0", 0, 1, .bool, 1⟩, ⟨"erx_p1", 1, 1, .bool, 1⟩, ⟨"erx_p2", 2, 1, .bool, 0⟩,
       ⟨"erx_p3", 3, 1, .bool, 0⟩, ⟨"erx_p4", 4, 1, .bool, 0⟩, ⟨"erx_p5", 5, 1, .bool, 0⟩,
       ⟨"reserved", 6, 2, .reserved, 0⟩]⟩,
     ⟨"SetupAw", 0x03, 1, [0x03],
      [⟨"aw", 0, 2, .enum .addressWidth, 3⟩, ⟨"reserved", 2, 6, .reserved, 0⟩]⟩,
     ⟨"SetupRetr", 0x04, 1, [0x03],
      [⟨"arc", 0, 4, .raw 4, 3⟩, ⟨"ard", 4, 4, .enum .autoRetransmitDelay, 0⟩]⟩,
     ⟨"RfCh", 0x05, 1, [0x02],
      [⟨"rf_ch", 0, 7, .raw 7, 2⟩, ⟨"reserved", 7, 1, .reserved, 0⟩]⟩,
     ⟨"RfSetup", 0x06, 1, [0x0E],
      [⟨"reserved", 0, 1, .reserved, 0⟩, ⟨"rf_pwr", 1, 2, .enum .rfPower, 3⟩,
       ⟨"rf_dr", 3, 3, .enum .dataRate, 1⟩, ⟨"reserved", 6, 1, .reserved, 0⟩,
       ⟨"cont_wave", 7, 1, .bool, 0⟩]⟩,
     ⟨"Status", 0x07, 1, [0x0E],
      [⟨"tx_full", 0, 1, .bool, 0⟩, ⟨"rx_p_no", 1, 3, .raw 3, 7⟩, ⟨"max_rt", 4, 1, .bool, 0⟩,
       ⟨"tx_ds", 5, 1, .bool, 0⟩, ⟨"rx_dr", 6, 1, .bool, 0⟩, ⟨"reserved", 7, 1, .reserved, 0⟩]⟩,
     ⟨"ObserveTx", 0x08, 1, [0x00],
      [⟨"arc_cnt", 0, 4, .raw 4, 0⟩, ⟨"plos_cnt", 4, 4, .raw 4, 0⟩]⟩,
     ⟨"Rpd", 0x09, 1, [0x00],
      [⟨"rpd", 0, 1, .bool, 0⟩, ⟨"reserved", 1, 7, .reserved, 0⟩]⟩]) ∧
  (RegValue.config
    { maskRxDr := true, maskTxDs := false, maskMaxRt := false, enCrc := false
      crco := .twoBytes, pwrUp := true, primRx := false }).pack = [0x46] ∧
  ∀ R ∈ [RegType.rxAddrP0, .rxAddrP1, .txAddr], ∀ r : RegValue R, r.pack.length = 5

/-- R34 to R38: the same of the one-byte address registers, the payload width registers, FifoStatus,
Dynpd and Feature; every 6-bit payload width is accepted (R35); and the read frame of FifoStatus (R36). -/
def Obligations.PipeLayoutsFollowTheFieldTables : Prop :=
  ([RegType.rxAddrP2, .rxAddrP3, .rxAddrP4, .rxAddrP5, .rxPwP0, .rxPwP1, .rxPwP2, .rxPwP3, .rxPwP4,
    .rxPwP5, .fifoStatus, .dynpd, .feature].map
      RegType.row =
    [⟨"RxAddrP2", 0x0C, 1, [0xC3], [⟨"rx_addr_p2", 0, 8, .raw 8, 0xC3⟩]⟩,
     ⟨"RxAddrP3", 0x0D, 1, [0xC4], [⟨"rx_addr_p3", 0, 8, .raw 8, 0xC4⟩]⟩,
     ⟨"RxAddrP4", 0x0E, 1, [0xC5], [⟨"rx_addr_p4", 0, 8, .raw 8, 0xC5⟩]⟩,
     ⟨"RxAddrP5", 0x0F, 1, [0xC6], [⟨"rx_addr_p5", 0, 8, .raw 8, 0xC6⟩]⟩,
     ⟨"RxPwP0", 0x11, 1, [0x00], [⟨"rx_pw_p0", 0, 6, .raw 6, 0⟩, ⟨"reserved", 6, 2, .reserved, 0⟩]⟩,
     ⟨"RxPwP1", 0x12, 1, [0x00], [⟨"rx_pw_p1", 0, 6, .raw 6, 0⟩, ⟨"reserved", 6, 2, .reserved, 0⟩]⟩,
     ⟨"RxPwP2", 0x13, 1, [0x00], [⟨"rx_pw_p2", 0, 6, .raw 6, 0⟩, ⟨"reserved", 6, 2, .reserved, 0⟩]⟩,
     ⟨"RxPwP3", 0x14, 1, [0x00], [⟨"rx_pw_p3", 0, 6, .raw 6, 0⟩, ⟨"reserved", 6, 2, .reserved, 0⟩]⟩,
     ⟨"RxPwP4", 0x15, 1, [0x00], [⟨"rx_pw_p4", 0, 6, .raw 6, 0⟩, ⟨"reserved", 6, 2, .reserved, 0⟩]⟩,
     ⟨"RxPwP5", 0x16, 1, [0x00], [⟨"rx_pw_p5", 0, 6, .raw 6, 0⟩, ⟨"reserved", 6, 2, .reserved, 0⟩]⟩,
     ⟨"FifoStatus", 0x17, 1, [0x11],
      [⟨"rx_empty", 0, 1, .bool, 1⟩, ⟨"rx_full", 1, 1, .bool, 0⟩,
       ⟨"reserved", 2, 2, .reserved, 0⟩, ⟨"tx_empty", 4, 1, .bool, 1⟩,
       ⟨"tx_full", 5, 1, .bool, 0⟩, ⟨"tx_reuse", 6, 1, .bool, 0⟩,
       ⟨"reserved", 7, 1, .reserved, 0⟩]⟩,
     ⟨"Dynpd", 0x1C, 1, [0x00],
      [⟨"dpl_p0", 0, 1, .bool, 0⟩, ⟨"dpl_p1", 1, 1, .bool, 0⟩, ⟨"dpl_p2", 2, 1, .bool, 0⟩,
       ⟨"dpl_p3", 3, 1, .bool, 0⟩, ⟨"dpl_p4", 4, 1, .bool, 0⟩, ⟨"dpl_p5", 5, 1, .bool, 0⟩,
       ⟨"reserved", 6, 2, .reserved, 0⟩]⟩,
     ⟨"Feature", 0x1D, 1, [0x00],
      [⟨"en_dyn_ack", 0, 1, .bool, 0⟩, ⟨"en_ack_pay", 1, 1, .bool, 0⟩,
       ⟨"en_dpl", 2, 1, .bool, 0⟩, ⟨"reserved", 3, 5, .reserved, 0⟩]⟩]) ∧
  (∀ R ∈ [RegType.rxPwP0, .rxPwP1, .rxPwP2, .rxPwP3, .rxPwP4, .rxPwP5],
    ∀ (s : RawSlot R) (v : Nat), v < 64 →
      ∃ r, (RegValue.withDefaults R).withSlot (.raw s v) = .ok r ∧ r.pack = [BitVec.ofNat 8 v]) ∧
  ∀ s : State, exec (.rRegister .fifoStatus) s = .next { s with frames := s.frames ++ [[0x17, 0x00]] }

/-- Layout invariants (10_state.md section 2): the slots of a type tile its bits, and the packed value
does not depend on the order in which they are listed. -/
def Obligations.SlotsTileTheRegister : Prop :=
  ∀ R : RegType,
    ((layout R).map SlotDesc.width).sum = 8 * R.width ∧
    (∀ b, b < 8 * R.width →
      ((layout R).filter fun d => decide (d.offset ≤ b ∧ b < d.offset + d.width)).length = 1) ∧
    ∀ (r : RegValue R) (ds : List (SlotDesc R)), ds.Perm (layout R) →
      ds.foldl (fun v d => v ||| (BitVec.ofNat 40 (r.descCode d) <<< d.offset)) 0 = r.packed

/-- R96, R136: every field's value in `with_defaults()`, and the packed default of every type. -/
def Obligations.DefaultsFollowTheResetTable : Prop :=
  (∀ (R : RegType) (s : BoolSlot R), (RegValue.withDefaults R).getBool s =
    decide (s.name ∈ ["en_crc", "enaa_p0", "enaa_p1", "enaa_p2", "enaa_p3", "enaa_p4", "enaa_p5",
      "erx_p0", "erx_p1", "tx_empty", "rx_empty"])) ∧
  (∀ (R : RegType) (s : RawSlot R), (RegValue.withDefaults R).getRaw s =
    (([("arc", 3), ("rf_ch", 2), ("rx_p_no", 7), ("rx_addr_p0", 0xE7E7E7E7E7),
      ("rx_addr_p1", 0xC2C2C2C2C2), ("rx_addr_p2", 0xC3), ("rx_addr_p3", 0xC4),
      ("rx_addr_p4", 0xC5), ("rx_addr_p5", 0xC6), ("tx_addr", 0xE7E7E7E7E7)].lookup s.name).getD 0)) ∧
  (RegValue.withDefaults .config).getCrco = .oneByte ∧
  (RegValue.withDefaults .setupAw).getAw = .bytes5 ∧
  (RegValue.withDefaults .setupRetr).getArd = .us250 ∧
  (RegValue.withDefaults .rfSetup).getRfDr = .mbps2 ∧
  (RegValue.withDefaults .rfSetup).getRfPwr = .dbm0 ∧
  (RegType.all.map fun R => (RegValue.withDefaults R).pack) =
    [[0x08], [0x3F], [0x03], [0x03], [0x03], [0x02], [0x0E], [0x0E], [0x00], [0x00],
     [0xE7, 0xE7, 0xE7, 0xE7, 0xE7], [0xC2, 0xC2, 0xC2, 0xC2, 0xC2], [0xC3], [0xC4], [0xC5], [0xC6],
     [0xE7, 0xE7, 0xE7, 0xE7, 0xE7], [0x00], [0x00], [0x00], [0x00], [0x00], [0x00], [0x11], [0x00],
     [0x00]]

/-- R89: a setter replaces exactly one slot, or raises RawFieldOverflow exactly when a raw value does
not fit its N bits; setting the value already held gives an equal register value. -/
def Obligations.SetterReplacesExactlyOneSlot : Prop :=
  ∀ (R : RegType) (r : RegValue R) (a : Assign R),
    (∀ s v, a = .raw s v → 2 ^ s.width ≤ v →
      r.withSlot a = .error (.rawFieldOverflow R s v s.width)) ∧
    ((∀ s v, a = .raw s v → v < 2 ^ s.width) →
      ∃ r', r.withSlot a = .ok r' ∧ r'.slotCode a.slot = a.code ∧
        (∀ t, t ≠ a.slot → r'.slotCode t = r.slotCode t) ∧
        (r.slotCode a.slot = a.code → r' = r))

/-- Setter laws (41_register_model.md, last rule): setters of different slots commute, the later of two
setters of one slot wins, and a slot reads as it was set. -/
def Obligations.SettersCommuteAndOverwrite : Prop :=
  ∀ (R : RegType) (r ra : RegValue R) (a b : Assign R), r.withSlot a = .ok ra →
    ra.slotCode a.slot = a.code ∧
    (a.slot = b.slot → ra.withSlot b = r.withSlot b) ∧
    (a.slot ≠ b.slot → ∀ rb, r.withSlot b = .ok rb →
      ∃ rab, ra.withSlot b = .ok rab ∧ rb.withSlot a = .ok rab)

/-- R42: every register value of every type, read-only slots included, is the value of some W_REGISTER
line, and W_REGISTER accepts it. -/
def Obligations.EveryRegisterValueCanBeWritten : Prop :=
  ∀ (R : RegType) (r : RegValue R),
    (∃ assigns : List (Assign R), (Line.writeRegister R assigns).slotsOnce = true ∧
      buildLine (.writeRegister R assigns) = .ok (.wRegister R r)) ∧
    ∀ s, ∃ f, exec (.wRegister R r) s = .next { s with frames := s.frames ++ [f] }

/-- R91: `pack` gives R.WIDTH bytes in which every slot stands at its offset, bools as 1 or 0, raw
values as they are, enumerants as their codes, reserved slots as 0. -/
def Obligations.PackPlacesEverySlot : Prop :=
  ∀ (R : RegType) (r : RegValue R), r.pack.length = R.width ∧
    ∀ d ∈ layout R, bitsAt (leValue r.pack) d.offset d.width =
      match d.slot with
      | some s => r.slotCode s
      | none => 0

/-- R33, R49: the three 5-byte registers, each with one slot `raw 40` at bits 39:0 and its default, pack
least significant byte first. -/
def Obligations.FullWidthAddressesPackLowByteFirst : Prop :=
  ([RegType.rxAddrP0, .rxAddrP1, .txAddr].map RegType.row =
    [⟨"RxAddrP0", 0x0A, 5, [0xE7, 0xE7, 0xE7, 0xE7, 0xE7],
      [⟨"rx_addr_p0", 0, 40, .raw 40, 0xE7E7E7E7E7⟩]⟩,
     ⟨"RxAddrP1", 0x0B, 5, [0xC2, 0xC2, 0xC2, 0xC2, 0xC2],
      [⟨"rx_addr_p1", 0, 40, .raw 40, 0xC2C2C2C2C2⟩]⟩,
     ⟨"TxAddr", 0x10, 5, [0xE7, 0xE7, 0xE7, 0xE7, 0xE7],
      [⟨"tx_addr", 0, 40, .raw 40, 0xE7E7E7E7E7⟩]⟩]) ∧
  ∀ v : BitVec 40, ∀ b, b ∈ [(RegValue.rxAddrP0 v).pack, (RegValue.rxAddrP1 v).pack,
      (RegValue.txAddr v).pack] →
    b = [v.extractLsb' 0 8, v.extractLsb' 8 8, v.extractLsb' 16 8, v.extractLsb' 24 8,
      v.extractLsb' 32 8]

/-- The source's round-trip property (95_test_vectors.md L1-4a): unpacking what a register value packs
to gives it back. -/
def Obligations.UnpackInvertsPack : Prop :=
  ∀ (R : RegType) (r : RegValue R), RegValue.unpack R r.pack = .ok r

/-- The converse, and that `pack` is injective (41_register_model.md, round-trip laws). -/
def Obligations.PackInvertsUnpack : Prop :=
  ∀ R : RegType,
    (∀ (b : List Byte) (r : RegValue R), RegValue.unpack R b = .ok r → r.pack = b) ∧
    ∀ r r' : RegValue R, r.pack = r'.pack → r = r'

/-- R120: `unpack` raises WrongLength exactly for a byte sequence of another length. -/
def Obligations.UnpackChecksTheLength : Prop :=
  ∀ (R : RegType) (b : List Byte),
    (b.length ≠ R.width → RegValue.unpack R b = .error (.wrongLength R b.length)) ∧
    (b.length = R.width → ∀ n, RegValue.unpack R b ≠ .error (.wrongLength R n))

/-- R121: `unpack` gives no value for bytes with a 1 in a reserved slot. -/
def Obligations.UnpackRefusesReservedBits : Prop :=
  ∀ (R : RegType) (b : List Byte) (d : SlotDesc R), b.length = R.width → d ∈ layout R →
    d.slot = none → bitsAt (leValue b) d.offset d.width ≠ 0 → ∃ e, RegValue.unpack R b = .error e

/-- R124: each call reports one error, the first its checks find. A setter has only RawFieldOverflow;
W_ACK_PAYLOAD checks the pipe before the length; `unpack` checks the length, then the slots of the layout
in its order, which is that of increasing bit offset. -/
def Obligations.FirstErrorFoundIsReported : Prop :=
  (∀ (R : RegType) (r : RegValue R) (a : Assign R) (e : ConstructionError),
    r.withSlot a = .error e → ∃ s v, a = .raw s v ∧ e = .rawFieldOverflow R s v s.width) ∧
  (∀ (pipe : Nat) (p : List Byte) (s : State), 5 < pipe →
    exec (.wAckPayload pipe p) s = .next { s with errors := s.errors ++ [.invalidPipe pipe] }) ∧
  (∀ (pipe : Nat) (p : List Byte) (s : State), pipe ≤ 5 → p.length = 0 ∨ 32 < p.length →
    exec (.wAckPayload pipe p) s =
      .next { s with errors := s.errors ++ [.payloadLengthOutOfRange .wAckPayload p.length] }) ∧
  (∀ R : RegType, (layout R).Pairwise fun d e => d.offset < e.offset) ∧
  (∀ (R : RegType) (b : List Byte),
    (b.length ≠ R.width → RegValue.unpack R b = .error (.wrongLength R b.length)) ∧
    (b.length = R.width →
      (∀ e, (layout R).findSome? (slotError (leValue b)) = some e → RegValue.unpack R b = .error e) ∧
      ((layout R).findSome? (slotError (leValue b)) = none → ∃ r, RegValue.unpack R b = .ok r)))

/-! ## The commands -/

/-- R100: R_REGISTER R emits the opcode `0x00 | R.ADDRESS`, which is the address, and R.WIDTH bytes
0x00. -/
def Obligations.RRegisterEmitsAddressAndPadding : Prop :=
  ∀ (R : RegType) (s : State), (0x00 ||| R.address) = R.address ∧
    exec (.rRegister R) s =
      .next { s with frames := s.frames ++ [(0x00 ||| R.address) :: List.replicate R.width 0x00] }

/-- R101: W_REGISTER r emits the opcode `0x20 | R.ADDRESS` and the R.WIDTH packed bytes of r, for every
register type and value. -/
def Obligations.WRegisterEmitsPackedValue : Prop :=
  ∀ (R : RegType) (r : RegValue R) (s : State), r.pack.length = R.width ∧
    exec (.wRegister R r) s = .next { s with frames := s.frames ++ [(0x20 ||| R.address) :: r.pack] }

/-- R102, R117: R_RX_PAYLOAD n emits 0x61 and n bytes 0x00 for n in 1..32, and raises
ReadLengthOutOfRange for every other n. -/
def Obligations.RRxPayloadEmitsPaddingOrRefuses : Prop :=
  (∀ (n : Nat) (s : State), 1 ≤ n → n ≤ 32 →
    exec (.rRxPayload n) s =
      .next { s with frames := s.frames ++ [0x61 :: List.replicate n 0x00] }) ∧
  (∀ (n : Nat) (s : State), n = 0 ∨ 32 < n →
    exec (.rRxPayload n) s = .next { s with errors := s.errors ++ [.readLengthOutOfRange n] })

/-- R103: R_RX_PL_WID emits 0x60 and one byte 0x00. -/
def Obligations.RRxPlWidEmitsOnePaddingByte : Prop :=
  ∀ s : State, exec .rRxPlWid s = .next { s with frames := s.frames ++ [[0x60, 0x00]] }

/-- R104: W_TX_PAYLOAD p emits 0xA0 and the payload, as given or reversed by PAYLOAD_ORDER, for a
payload of 1 to 32 bytes, and raises PayloadLengthOutOfRange for any other. -/
def Obligations.WTxPayloadEmitsPayloadOrRefuses : Prop :=
  (∀ (p : List Byte) (s : State), 1 ≤ p.length → p.length ≤ 32 →
    (s.payloadOrder = .preserve →
      exec (.wTxPayload p) s = .next { s with frames := s.frames ++ [0xA0 :: p] }) ∧
    (s.payloadOrder = .reverse →
      exec (.wTxPayload p) s = .next { s with frames := s.frames ++ [0xA0 :: p.reverse] })) ∧
  (∀ (p : List Byte) (s : State), p.length = 0 ∨ 32 < p.length →
    exec (.wTxPayload p) s =
      .next { s with errors := s.errors ++ [.payloadLengthOutOfRange .wTxPayload p.length] })

/-- R105, R118: W_ACK_PAYLOAD pipe, p emits the opcode `0xA8 | pipe`, whose bits 7:3 are 0b10101 and
bits 2:0 the pipe, and the payload in PAYLOAD_ORDER, for a pipe in 0..5 and 1 to 32 bytes; a pipe above 5
raises InvalidPipe, a bad length PayloadLengthOutOfRange. -/
def Obligations.WAckPayloadEmitsPayloadOrRefuses : Prop :=
  (∀ (pipe : Nat) (p : List Byte) (s : State), pipe ≤ 5 → 1 ≤ p.length → p.length ≤ 32 →
    ∃ op : Byte, op = 0xA8 ||| BitVec.ofNat 8 pipe ∧ op.toNat / 8 = 0b10101 ∧ op.toNat % 8 = pipe ∧
      (s.payloadOrder = .preserve →
        exec (.wAckPayload pipe p) s = .next { s with frames := s.frames ++ [op :: p] }) ∧
      (s.payloadOrder = .reverse →
        exec (.wAckPayload pipe p) s = .next { s with frames := s.frames ++ [op :: p.reverse] })) ∧
  (∀ (pipe : Nat) (p : List Byte) (s : State), 5 < pipe →
    exec (.wAckPayload pipe p) s = .next { s with errors := s.errors ++ [.invalidPipe pipe] }) ∧
  (∀ (pipe : Nat) (p : List Byte) (s : State), pipe ≤ 5 → p.length = 0 ∨ 32 < p.length →
    exec (.wAckPayload pipe p) s =
      .next { s with errors := s.errors ++ [.payloadLengthOutOfRange .wAckPayload p.length] })

/-- R106: W_TX_PAYLOAD_NOACK p emits 0xB0 and the payload in PAYLOAD_ORDER for 1 to 32 bytes, and raises
PayloadLengthOutOfRange for any other length. -/
def Obligations.WTxPayloadNoackEmitsPayloadOrRefuses : Prop :=
  (∀ (p : List Byte) (s : State), 1 ≤ p.length → p.length ≤ 32 →
    (s.payloadOrder = .preserve →
      exec (.wTxPayloadNoack p) s = .next { s with frames := s.frames ++ [0xB0 :: p] }) ∧
    (s.payloadOrder = .reverse →
      exec (.wTxPayloadNoack p) s = .next { s with frames := s.frames ++ [0xB0 :: p.reverse] })) ∧
  (∀ (p : List Byte) (s : State), p.length = 0 ∨ 32 < p.length →
    exec (.wTxPayloadNoack p) s =
      .next { s with errors := s.errors ++ [.payloadLengthOutOfRange .wTxPayloadNoack p.length] })

/-- R108 to R111: the four control commands emit one fixed opcode byte each and no data byte. -/
def Obligations.ControlCommandsEmitOneByte : Prop :=
  ∀ s : State,
    exec .flushTx s = .next { s with frames := s.frames ++ [[0xE1]] } ∧
    exec .flushRx s = .next { s with frames := s.frames ++ [[0xE2]] } ∧
    exec .reuseTxPl s = .next { s with frames := s.frames ++ [[0xE3]] } ∧
    exec .nop s = .next { s with frames := s.frames ++ [[0xFF]] }

/-- R112: ACTIVATE emits 0x50 and the constant 0x73. -/
def Obligations.ActivateEmitsItsConstant : Prop :=
  ∀ s : State, exec .activate s = .next { s with frames := s.frames ++ [[0x50, 0x73]] }

/-- R116: a payload write command built with 0 bytes or more than 32 gives no frame and the error
PayloadLengthOutOfRange with its command kind and length (W_ACK_PAYLOAD with a pipe in 0..5). -/
def Obligations.PayloadLengthsOutOfRangeAreRefused : Prop :=
  ∀ (p : List Byte) (s : State), p.length = 0 ∨ 32 < p.length →
    ∀ i k, (i = .wTxPayload p ∧ k = .wTxPayload) ∨ (i = .wTxPayloadNoack p ∧ k = .wTxPayloadNoack) ∨
        (∃ pipe, pipe ≤ 5 ∧ i = .wAckPayload pipe p ∧ k = .wAckPayload) →
      exec i s = .next { s with errors := s.errors ++ [.payloadLengthOutOfRange k p.length] }

/-- R122: a command outside its operand ranges is refused at once: one error is returned, and nothing
else changes, no frame among it. -/
def Obligations.IllFormedCommandsOnlyReturnAnError : Prop :=
  ∀ (i : Instr) (s : State), i.wellFormed = false →
    ∃ e, exec i s = .next { s with errors := s.errors ++ [e] }

/-- The frame of every command: the parameter and what is pending stay, nothing handed out earlier
changes, and either one frame or one error is added (00_scope.md section 1, 20_memory.md section 3). -/
def Obligations.CommandsChangeNothingElse : Prop :=
  ∀ (i : Instr) (s t : State), exec i s = .next t →
    t.payloadOrder = s.payloadOrder ∧ t.pending = s.pending ∧
    ((∃ f, t.frames = s.frames ++ [f]) ∧ t.errors = s.errors ∧ i.wellFormed = true ∨
     t.frames = s.frames ∧ (∃ e, t.errors = s.errors ++ [e]) ∧ i.wellFormed = false)

/-- The meanings, written from the rules of each command, give the frames of the opcode map and the
operand forms (30_encoding.md sections 1 to 3). -/
def Obligations.MeaningsAgreeWithTheOpcodeMap : Prop :=
  ∀ (i : Instr) (s : State), i.wellFormed = true →
    exec i s = .next { s with frames := s.frames ++ [encode s.payloadOrder i] }

/-- R68: the length of every command's frame. -/
def Obligations.FrameLengthsFollowTheCommand : Prop :=
  ∀ (i : Instr) (s : State), i.wellFormed = true →
    ∃ f, exec i s = .next { s with frames := s.frames ++ [f] } ∧ f.length = i.frameLength ∧
      1 ≤ f.length ∧ f.length ≤ 33

/-- R11: equal commands under equal payload orders give equal output, whatever else the states
hold. -/
def Obligations.OutputDependsOnTheCommandAlone : Prop :=
  ∀ (i : Instr) (s₁ s₂ : State), s₁.payloadOrder = s₂.payloadOrder →
    ∃ fs es, exec i s₁ = .next { s₁ with frames := s₁.frames ++ fs, errors := s₁.errors ++ es } ∧
      exec i s₂ = .next { s₂ with frames := s₂.frames ++ fs, errors := s₂.errors ++ es }

/-! ## Encoding and decoding -/

/-- Decoding the frame of a well-formed command gives the command back, for every command, operand and
payload order (30_encoding.md section 3). -/
def Obligations.DecodeInvertsEncode : Prop :=
  ∀ (o : PayloadOrder) (i : Instr), i.wellFormed = true → decodeFrame o (encode o i) = .ok i

/-- A frame that spells a command is exactly that command's frame (30_encoding.md section 3). -/
def Obligations.EncodeInvertsDecode : Prop :=
  ∀ (o : PayloadOrder) (f : Frame) (i : Instr), decodeFrame o f = .ok i →
    i.wellFormed = true ∧ encode o i = f

/-- Two different commands never give the same frame (30_encoding.md section 3). -/
def Obligations.EncodeIsInjective : Prop :=
  ∀ (o : PayloadOrder) (i j : Instr), i.wellFormed = true → j.wellFormed = true →
    encode o i = encode o j → i = j

/-- The classification of all 256 opcodes (30_encoding.md section 3): a produced opcode begins some
frame and only frames of its kind, a never produced one begins none. -/
def Obligations.OpcodesAreClassified : Prop :=
  ∀ (o : PayloadOrder) (op : Byte),
    (∀ k, producedKind op = some k →
      (∃ data i, decodeFrame o (op :: data) = .ok i) ∧
      ∀ data i, decodeFrame o (op :: data) = .ok i → i.kind = k) ∧
    (producedKind op = none → ∀ data i, decodeFrame o (op :: data) ≠ .ok i)

/-- Opcode and address combination (30_encoding.md section 1): the OR is a sum, and the template and
the address can be read back from it. -/
def Obligations.RegisterOpcodesKeepTemplateAndAddress : Prop :=
  ∀ R : RegType, ∀ t : Byte, t &&& 0x1F = 0 →
    regOpcode t R = t + R.address ∧ regOpcode t R &&& 0xE0 = t ∧ regOpcode t R &&& 0x1F = R.address

/-- The frames of 95_test_vectors.md L2-7, written out, decode as the vectors say. -/
def Obligations.ListedFramesDecode : Prop :=
  ∀ o, decodeFrame o [0x37, 0x11] = .ok (.wRegister .fifoStatus (RegValue.withDefaults .fifoStatus)) ∧
    decodeFrame o [0x17, 0x00] = .ok (.rRegister .fifoStatus) ∧
    decodeFrame o [0xFF] = .ok .nop ∧
    decodeFrame o [0x50, 0x73] = .ok .activate ∧
    decodeFrame o [0xAD, 0x01] = .ok (.wAckPayload 5 [0x01]) ∧
    decodeFrame o [0x18, 0x00] = .error (.unassignedAddress 0x18) ∧
    decodeFrame o [0x3F, 0x00] = .error (.unassignedAddress 0x1F) ∧
    decodeFrame o [0xAE, 0x01] = .error (.unassignedPipe 6) ∧
    decodeFrame o [0x40] = .error (.undefinedOpcode 0x40) ∧
    decodeFrame o [0xFF, 0x00] = .error (.dataLength .nop 1) ∧
    decodeFrame o [0x20, 0x80] = .error (.registerValue (.reservedBitSet .config 7)) ∧
    decodeFrame o [0x00] = .error (.dataLength .rRegister 0)

/-! ## The step -/

/-- A step runs the oldest presented command, in the state that no longer holds it (10_state.md
section 1). -/
def Obligations.StepRunsThePresentedCommand : Prop :=
  ∀ (s : State) (i : Instr) (rest : List Presented), s.pending = .command i :: rest →
    step s = exec i { s with pending := rest }

/-- A step runs the command a presented frame spells, in the state that no longer holds it; a table
word placed for the next step runs in the state as it was (model's choice: notes/assumptions/5.md,
7.md). -/
def Obligations.StepRunsTheDecodedFrame : Prop :=
  (∀ (s : State) (bytes : Frame) (i : Instr) (rest : List Presented),
    s.pending = .frame bytes :: rest → decodeFrame s.payloadOrder bytes = .ok i →
      step s = exec i { s with pending := rest }) ∧
  (∀ (s : State) (nbits w : Nat) (i : Instr),
    decodeFrame s.payloadOrder (tableFrame nbits w) = .ok i →
      step (s.withFetchWord nbits w) = exec i s)

/-- R71: no command's frame begins with a never produced opcode, and a frame that does is answered
"spells no command", whatever follows. -/
def Obligations.NeverProducedOpcodesAreRefused : Prop :=
  (∀ (i : Instr) (s t : State) (op : Byte) (data : List Byte), exec i s = .next t →
    t.frames = s.frames ++ [op :: data] → producedKind op ≠ none) ∧
  (∀ (s : State) (op : Byte) (data : List Byte) (rest : List Presented),
    producedKind op = none → s.pending = .frame (op :: data) :: rest →
      ∃ why, step s = .refused (.spellsNoCommand why))

/-- A program in which a line fails to build is refused as a whole: no frame, not even of the lines before
it (60_exceptions.md section 2). That the error returned is the first failing line's is read from program
P4 of 95_test_vectors.md (notes/assumptions/9.md). A program with a line that assigns a slot twice is not
among these: the next statement says what becomes of it (notes/assumptions/14.md). -/
def Obligations.ProgramWithAFailingLineIsRefused : Prop :=
  ∀ (s : State) (before after : List Line) (l : Line) (e : ConstructionError)
    (rest : List Presented),
    s.pending = .program (before ++ l :: after) :: rest →
    (∀ k ∈ before ++ l :: after, k.slotsOnce = true) →
    (∀ k ∈ before, ∃ c, buildLine k = .ok c) → buildLine l = .error e →
      step s = .next { s with pending := rest, errors := s.errors ++ [e] }

/-- A program whose every line builds stands its commands next, in the order of the lines
(30_encoding.md section 4; that building takes one step is the model's choice: notes/assumptions/9.md). A
program with a line that assigns a slot twice, which 30_encoding.md section 4 forbids, is refused by name,
whatever else stands in it (the model's choice: notes/assumptions/14.md). -/
def Obligations.ProgramThatBuildsStandsItsCommandsNext : Prop :=
  ∀ (s : State) (lines : List Line) (rest : List Presented), s.pending = .program lines :: rest →
    (∀ cs : List Instr, (∀ k ∈ lines, k.slotsOnce = true) → lines.map buildLine = cs.map .ok →
      step s = .next { s with pending := cs.map .command ++ rest }) ∧
    ((∃ R assigns, .writeRegister R assigns ∈ lines ∧ ¬(assigns.map Assign.slot).Nodup) →
      step s = .refused .slotAssignedTwice)

/-- The register value of a W_REGISTER line is `with_defaults()` with each assignment applied in turn,
and a slot no assignment names keeps its default (30_encoding.md section 4). -/
def Obligations.WRegisterLineStartsFromDefaults : Prop :=
  ∀ (R : RegType) (assigns : List (Assign R)) (c : Instr),
    buildLine (.writeRegister R assigns) = .ok c →
      ∃ r : RegValue R, c = .wRegister R r ∧
        (∀ s, s ∉ assigns.map Assign.slot → r.slotCode s = (RegValue.withDefaults R).slotCode s) ∧
        ((assigns.map Assign.slot).Nodup → ∀ a ∈ assigns, r.slotCode a.slot = a.code)

/-- A text that the assembler reads is taken as its program; any other text is refused by name
(30_encoding.md section 4; notes/assumptions/11.md). -/
def Obligations.TextIsTakenAsItsProgram : Prop :=
  ∀ (s : State) (source : List Char) (rest : List Presented), s.pending = .text source :: rest →
    (∀ lines, parseProgram source = some lines →
      step s = step { s with pending := .program lines :: rest }) ∧
    (parseProgram source = none → step s = .refused .notInSyntax)

/-- Every program, written out in the syntax with its integers in any of the three notations, reads as
itself (30_encoding.md section 4, every production). A W_REGISTER command with a ready value is written
with all its slots assigned, and that line builds the same command. The spacing of the text and an empty
`[]` are points of notes/assumptions/11.md. -/
def Obligations.AssemblerReadsEveryProgram : Prop :=
  (∀ (b : IntegerForm) (lines : List Line),
    parseProgram (programText b lines) = some (lines.map Line.asWritten)) ∧
  ∀ l : Line, buildLine l.asWritten = buildLine l ∧ l.asWritten.slotsOnce = l.slotsOnce ∧
    ((∀ R r, l ≠ .command (.wRegister R r)) → l.asWritten = l)

/-- `;` starts a comment to the end of the line: what stands after it changes nothing, and a blank line
gives no command (30_encoding.md section 4; that a line feed ends a line: notes/assumptions/11.md). -/
def Obligations.CommentsCarryNoMeaning : Prop :=
  ∀ code comment rest : List Char, '\n' ∉ comment →
    parseProgram (code ++ ';' :: comment ++ '\n' :: rest) = parseProgram (code ++ '\n' :: rest) ∧
    parseProgram (';' :: comment ++ '\n' :: rest) = parseProgram rest

/-- The underscores of an integer carry no meaning (00_scope.md section 4); where they may stand, anywhere
after the first digit and never before it, is the model's choice (notes/assumptions/11.md). -/
def Obligations.SeparatorsInIntegersCarryNoMeaning : Prop :=
  ∀ base : Nat,
    (∀ (c : Char) (cs : List Char), c ≠ '_' →
      number base (c :: cs) = number base (c :: cs.filter (· ≠ '_'))) ∧
    ∀ cs : List Char, number base ('_' :: cs) = none

/-- Well-formed commands presented together are encoded in the order presented, one a step, none
merged, split or reordered (R60). -/
def Obligations.PresentedCommandsAreEncodedInOrder : Prop :=
  ∀ (s : State) (cs : List Instr) (rest : List Presented),
    (∀ c ∈ cs, c.wellFormed = true) → s.pending = cs.map .command ++ rest →
      Host.Core.run core cs.length s =
        .next { s with pending := rest, frames := s.frames ++ cs.map (encode s.payloadOrder) }

/-- R51: no step changes PAYLOAD_ORDER, and a register's frame does not depend on it. -/
def Obligations.ByteOrderIsNotSwitchable : Prop :=
  (∀ s t : State, step s = .next t → t.payloadOrder = s.payloadOrder) ∧
  (∀ (R : RegType) (r : RegValue R) (s : State) (o : PayloadOrder),
    ∃ f, exec (.wRegister R r) s = .next { s with frames := s.frames ++ [f] } ∧
      exec (.wRegister R r) { s with payloadOrder := o } =
        .next { s with payloadOrder := o, frames := s.frames ++ [f] })

/-- A step never takes back or alters what was handed out, and hands out at most one frame or one
error (20_memory.md section 5). -/
def Obligations.StepOnlyAddsToTheOutput : Prop :=
  ∀ s t : State, step s = .next t →
    ∃ fs es, t.frames = s.frames ++ fs ∧ t.errors = s.errors ++ es ∧ fs.length + es.length ≤ 1

/-- With nothing presented a step changes nothing (model's choice: notes/assumptions/13.md). -/
def Obligations.IdleStepChangesNothing : Prop :=
  ∀ s : State, s.pending = [] → step s = .next s

/-- Every step keeps the invariant that all frames handed out spell commands: no never produced
opcode, wrong length or stray data byte leaves the block (30_encoding.md section 3). -/
def Obligations.StepKeepsFramesSpellingCommands : Prop :=
  ∀ s t : State, s.framesSpell = true → step s = .next t → t.framesSpell = true

/-- Every step keeps the invariant that all errors returned have their cause, in the wording of the
error table (60_exceptions.md section 1). -/
def Obligations.StepKeepsErrorsWithCauses : Prop :=
  ∀ s t : State, s.errorsHaveCause = true → step s = .next t → t.errorsHaveCause = true

/-- The state before the first encoding: the default payload order, the model's own lists empty
(notes/assumptions/2.md to 4.md), and both invariants. -/
def Obligations.ResetMeetsTheInvariants : Prop :=
  State.reset = { payloadOrder := .preserve, pending := [], frames := [], errors := [] } ∧
    State.reset.framesSpell = true ∧ State.reset.errorsHaveCause = true

/-- The number of each kind of error (60_exceptions.md section 1). -/
def Obligations.ErrorKindsAreNumbered : Prop :=
  (∀ R s v n, (ConstructionError.rawFieldOverflow R s v n).kindCode = 1) ∧
  (∀ k n, (ConstructionError.payloadLengthOutOfRange k n).kindCode = 2) ∧
  (∀ n, (ConstructionError.readLengthOutOfRange n).kindCode = 3) ∧
  (∀ n, (ConstructionError.invalidPipe n).kindCode = 4) ∧
  (∀ F c, (ConstructionError.invalidCode F c).kindCode = 5) ∧
  (∀ R n, (ConstructionError.wrongLength R n).kindCode = 6) ∧
  (∀ R n, (ConstructionError.reservedBitSet R n).kindCode = 7)
end

