-- ==== Sys2Proof/Laws/Assembler.lean ====
section
/-!
SUPPORT. The assembler said once: what the lexer makes of words, spaces, punctuation and comments, and
that integers, values, operands and lines written out are read back. Provers cite these instead of
unfolding the lexer.
-/

namespace Sys2Proof.Machine

/-- Names are found where they stand, when no name stands twice. -/
theorem pick_of_mem {α : Type} {names : List (String × α)} (h : (names.map Prod.fst).Nodup)
    {n : String} {a : α} (hm : (n, a) ∈ names) : pick names n.toList = some a := by
  induction names with
  | nil => cases hm
  | cons x rest ih =>
    obtain ⟨m, b⟩ := x
    simp only [List.map_cons, List.nodup_cons, List.mem_map] at h
    rcases List.mem_cons.1 hm with e | hm
    · cases e; simp [pick]
    · have : m ≠ n := fun e => h.1 ⟨_, hm, e.symm⟩
      simp [pick, String.toList_inj, this, ih h.2 hm]

/-- A register type is found by its name. -/
theorem regTypeOf_name (R : RegType) : regTypeOf R.name.toList = some R := by
  cases R <;> decide

/-- A slot is found by its name in its register type. -/
theorem slotOf_name {R : RegType} (s : Slot R) : slotOf R s.name.toList = some s := by
  cases s with
  | bool s => cases s <;> decide
  | raw s => cases s <;> decide
  | _ => decide

/-- One word: at least one character, all of them word characters. -/
def IsWord (w : List Char) : Prop := w ≠ [] ∧ w.all isWordChar = true

theorem IsWord.mem {w : List Char} (h : IsWord w) : ∀ c ∈ w, isWordChar c = true :=
  List.all_eq_true.1 h.2

/-- The word being read goes on through word characters. -/
theorem lexLine_word {w : List Char} (hw : ∀ c ∈ w, isWordChar c = true) (acc rest : List Char) :
    lexLine acc (w ++ rest) = lexLine (w.reverse ++ acc) rest := by
  induction w generalizing acc with
  | nil => rfl
  | cons c w ih =>
    have hc : c ≠ ';' := by rintro rfl; exact absurd (hw ';' (by simp)) (by decide)
    simp [lexLine, hc, hw c (by simp), ih fun d hd => hw d (by simp [hd])]

/-- A word read so far ends as a token. -/
@[simp] theorem endWord_reverse {w : List Char} (h : w ≠ []) (ts : List Token) :
    endWord w.reverse ts = .word w :: ts := by
  have : w.reverse ≠ [] := by simpa using h
  unfold endWord
  split
  · contradiction
  · simp

/-- A word at the end of a line. -/
theorem lexLine_word_end {w : List Char} (h : IsWord w) :
    lexLine [] w = some [.word w] := by
  have := lexLine_word h.mem [] []
  simp only [List.append_nil] at this
  simp [this, lexLine, h.1]

/-- A space ends the word being read. -/
theorem lexLine_space (acc rest : List Char) :
    lexLine acc (' ' :: rest) = (lexLine [] rest).map (endWord acc) := by
  simp [lexLine, show isWordChar ' ' = false by decide]

/-- A punctuation mark ends the word being read and is a token itself. -/
theorem lexLine_punctuation {c : Char} {t : Token} (h : punctuation c = some t)
    (acc rest : List Char) :
    lexLine acc (c :: rest) = (lexLine [] rest).map fun ts => endWord acc (t :: ts) := by
  have : c ≠ ';' ∧ isWordChar c = false ∧ ¬(c = ' ' ∨ c = '\t' ∨ c = '\r') := by
    unfold punctuation at h
    have hb : c.toNat = 0x7B → c = Char.ofNat 0x7B := by
      intro e; rw [← e, Char.ofNat_toNat]
    have hb' : c.toNat = 0x7D → c = Char.ofNat 0x7D := by
      intro e; rw [← e, Char.ofNat_toNat]
    split at h
    · rw [hb (by assumption)]; decide
    split at h
    · rw [hb' (by assumption)]; decide
    repeat (split at h; · subst_vars; decide)
    cases h
  simp [lexLine, this, h]

/-- A comment ends the line, whatever stands in it (30_encoding.md R74). -/
theorem lexLine_comment (acc code comment : List Char) :
    lexLine acc (code ++ ';' :: comment) = lexLine acc code := by
  induction code generalizing acc with
  | nil => simp [lexLine]
  | cons c cs ih => simp only [List.cons_append, lexLine, ih]

/-- A line feed ends the line being read. -/
theorem linesOf_line {l : List Char} (h : '\n' ∉ l) (acc rest : List Char) :
    linesOf acc (l ++ '\n' :: rest) = (acc.reverse ++ l) :: linesOf [] rest := by
  induction l generalizing acc with
  | nil => simp [linesOf]
  | cons c cs ih =>
    simp only [List.mem_cons, not_or] at h
    simp [linesOf, Ne.symm h.1, ih h.2]

/-- The value of the digits of a base. -/
theorem digitValue_digitChar {d : Nat} (h : d < 16) : digitValue d.digitChar = some d := by
  have : ∀ d < 16, digitValue d.digitChar = some d := by decide
  exact this d h

/-- Digits are read from left to right. -/
theorem digits_append (base v : Nat) (xs ys : List Char) :
    digits base v (xs ++ ys) = (digits base v xs).bind fun v' => digits base v' ys := by
  induction xs generalizing v with
  | nil => rfl
  | cons c cs ih =>
    simp only [List.cons_append, digits, ih]
    split
    · rfl
    · split
      · split <;> simp
      · rfl

/-- No digit is the underscore. -/
theorem digitChar_ne_underscore {d : Nat} (h : d < 16) : d.digitChar ≠ '_' := by
  have : ∀ d < 16, d.digitChar ≠ '_' := by decide
  exact this d h

/-- A number's digits are read back. -/
theorem digits_toDigits {base : Nat} (h2 : 1 < base) (h16 : base ≤ 16) (n : Nat) :
    digits base 0 (Nat.toDigits base n) = some n := by
  induction n using Nat.strongRecOn with
  | ind n ih =>
    rw [Nat.toDigits_eq_if h2]
    split
    · next h =>
      simp [digits, digitChar_ne_underscore (h.trans_le h16), digitValue_digitChar (h.trans_le h16), h]
    · next h =>
      have hm : n % base < base := Nat.mod_lt _ (by omega)
      rw [digits_append, ih (n / base) (Nat.div_lt_self (by omega) h2)]
      simp [digits, digitChar_ne_underscore (hm.trans_le h16), digitValue_digitChar (hm.trans_le h16),
        hm, Nat.div_add_mod]

/-- What a number's digits are. -/
theorem mem_toDigits {base : Nat} (h2 : 1 < base) (n : Nat) {c : Char}
    (hc : c ∈ Nat.toDigits base n) : ∃ d < base, c = d.digitChar := by
  induction n using Nat.strongRecOn with
  | ind n ih =>
    rw [Nat.toDigits_eq_if h2] at hc
    split at hc
    · exact ⟨n, by assumption, by simpa using hc⟩
    · rcases List.mem_append.1 hc with hc | hc
      · exact ih (n / base) (Nat.div_lt_self (by omega) h2) hc
      · exact ⟨n % base, Nat.mod_lt _ (by omega), by simpa using hc⟩

/-- A number written out in a base is read back. -/
theorem number_toDigits {base : Nat} (h2 : 1 < base) (h16 : base ≤ 16) (n : Nat) :
    number base (Nat.toDigits base n) = some n := by
  have hd := digits_toDigits h2 h16 n
  have hne : Nat.toDigits base n ≠ [] := Nat.toDigits_ne_nil
  cases e : Nat.toDigits base n with
  | nil => exact absurd e hne
  | cons c cs =>
    obtain ⟨d, hlt, rfl⟩ := mem_toDigits h2 n (c := c) (by simp [e])
    rw [e] at hd
    simp [number, digitChar_ne_underscore (hlt.trans_le h16), hd]

/-- An integer written out in any of the three notations is read back (30_encoding.md R74). -/
theorem integerOf_integerText (b : IntegerForm) (n : Nat) : integerOf (integerText b n) = some n := by
  cases b with
  | decimal =>
    have hn := number_toDigits (base := 10) (by omega) (by omega) n
    have hx : ∀ cs, Nat.toDigits 10 n ≠ '0' :: 'x' :: cs := by
      intro cs e
      obtain ⟨d, hd, he⟩ := mem_toDigits (base := 10) (by omega) n (c := 'x') (by simp [e])
      have : ∀ d < 10, 'x' ≠ d.digitChar := by decide
      exact this d hd he
    have hb : ∀ cs, Nat.toDigits 10 n ≠ '0' :: 'b' :: cs := by
      intro cs e
      obtain ⟨d, hd, he⟩ := mem_toDigits (base := 10) (by omega) n (c := 'b') (by simp [e])
      have : ∀ d < 10, 'b' ≠ d.digitChar := by decide
      exact this d hd he
    simp only [integerText]
    unfold integerOf
    split
    · next e => exact absurd e (hx _)
    · next e => exact absurd e (hb _)
    · exact hn
  | hex => exact number_toDigits (base := 16) (by omega) (by omega) n
  | binary => exact number_toDigits (base := 2) (by omega) (by omega) n

/-- An integer written out is one word. -/
theorem integerText_word (b : IntegerForm) (n : Nat) : IsWord (integerText b n) := by
  simp only [IsWord, List.all_eq_true]
  have hd : ∀ d < 16, isWordChar d.digitChar = true := by decide
  have hm : ∀ base, 1 < base → base ≤ 16 → ∀ c ∈ Nat.toDigits base n, isWordChar c = true := by
    intro base h2 h16 c hc
    obtain ⟨d, hlt, rfl⟩ := mem_toDigits h2 n hc
    exact hd d (by omega)
  cases b with
  | decimal => exact ⟨Nat.toDigits_ne_nil, hm 10 (by omega) (by omega)⟩
  | hex =>
    refine ⟨by simp [integerText], fun c hc => ?_⟩
    simp only [integerText, List.mem_append, List.mem_cons, List.not_mem_nil, or_false] at hc
    rcases hc with (rfl | rfl) | hc
    · decide
    · decide
    · exact hm 16 (by omega) (by omega) c hc
  | binary =>
    refine ⟨by simp [integerText], fun c hc => ?_⟩
    simp only [integerText, List.mem_append, List.mem_cons, List.not_mem_nil, or_false] at hc
    rcases hc with (rfl | rfl) | hc
    · decide
    · decide
    · exact hm 2 (by omega) (by omega) c hc

/-- No line feed stands in a word. -/
theorem IsWord.newline {w : List Char} (h : IsWord w) : '\n' ∉ w :=
  fun hm => absurd (h.mem _ hm) (by decide)

/-- A byte written out is read back. -/
theorem byteOf_integerText (b : IntegerForm) (x : Byte) : byteOf (integerText b x.toNat) = some x := by
  simp [byteOf, integerOf_integerText, x.isLt]

/-- The enumerants of each enumeration are found by their names, each name one word (R79 to R83). -/
theorem crcName_read (v : CrcEncodingScheme) :
    pick crcNames v.name.toList = some v ∧ IsWord v.name.toList := by
  cases v <;> exact ⟨by decide, by decide, by decide⟩

theorem awName_read (v : AddressWidth) :
    pick awNames v.name.toList = some v ∧ IsWord v.name.toList := by
  cases v <;> exact ⟨by decide, by decide, by decide⟩

theorem ardName_read (v : AutoRetransmitDelay) :
    pick ardNames v.name.toList = some v ∧ IsWord v.name.toList := by
  cases v <;> exact ⟨by decide, by decide, by decide⟩

theorem rateName_read (v : DataRate) :
    pick rateNames v.name.toList = some v ∧ IsWord v.name.toList := by
  cases v <;> exact ⟨by decide, by decide, by decide⟩

theorem powerName_read (v : RfPower) :
    pick powerNames v.name.toList = some v ∧ IsWord v.name.toList := by
  cases v <;> exact ⟨by decide, by decide, by decide⟩

/-- A slot's value written out is read back, as one word (41_register_model.md R89). -/
theorem assignOf_valueText (b : IntegerForm) {R : RegType} (a : Assign R) :
    assignOf R a.slot.name.toList (valueText b a) = some a ∧ IsWord (valueText b a) := by
  cases a with
  | bool s v =>
    simp only [assignOf, Assign.slot, slotOf_name]
    cases v <;> exact ⟨rfl, by simp [valueText], by simp only [valueText]; decide⟩
  | raw s v =>
    exact ⟨by simp [assignOf, Assign.slot, slotOf_name, valueText, integerOf_integerText],
      integerText_word b v⟩
  | crco v =>
    exact ⟨by simp only [assignOf, Assign.slot, slotOf_name, valueText, crcName_read, Option.map],
      (crcName_read v).2⟩
  | aw v =>
    exact ⟨by simp only [assignOf, Assign.slot, slotOf_name, valueText, awName_read, Option.map],
      (awName_read v).2⟩
  | ard v =>
    exact ⟨by simp only [assignOf, Assign.slot, slotOf_name, valueText, ardName_read, Option.map],
      (ardName_read v).2⟩
  | rfDr v =>
    exact ⟨by simp only [assignOf, Assign.slot, slotOf_name, valueText, rateName_read, Option.map],
      (rateName_read v).2⟩
  | rfPwr v =>
    exact ⟨by simp only [assignOf, Assign.slot, slotOf_name, valueText, powerName_read, Option.map],
      (powerName_read v).2⟩

/-- A slot's name is one word. -/
theorem slotName_word {R : RegType} (s : Slot R) :
    IsWord s.name.toList := by
  cases s with
  | bool s => cases s <;> exact ⟨by decide, by decide⟩
  | raw s => cases s <;> exact ⟨by decide, by decide⟩
  | _ => exact ⟨by decide, by decide⟩

/-- A register type's name is one word. -/
theorem regTypeName_word (R : RegType) :
    IsWord R.name.toList := by
  cases R <;> exact ⟨by decide, by decide⟩

/-- A word before a space. -/
theorem lexLine_word_space {w : List Char} (h : IsWord w)
    (rest : List Char) :
    lexLine [] (w ++ ' ' :: rest) = (lexLine [] rest).map (Token.word w :: ·) := by
  rw [lexLine_word h.mem, lexLine_space]
  cases lexLine [] rest <;> simp [h.1]

/-- A word before a punctuation mark. -/
theorem lexLine_word_punctuation {w : List Char} (h : IsWord w)
    {c : Char} {t : Token} (hc : punctuation c = some t) (rest : List Char) :
    lexLine [] (w ++ c :: rest) = (lexLine [] rest).map fun ts => Token.word w :: t :: ts := by
  rw [lexLine_word h.mem, lexLine_punctuation hc]
  simp [h.1]

/-- The tokens of a list of bytes. -/
def bytesTokens (b : IntegerForm) : List Byte → List Token
  | [] => [.rbracket]
  | [x] => [.word (integerText b x.toNat), .rbracket]
  | x :: y :: rest => .word (integerText b x.toNat) :: .comma :: bytesTokens b (y :: rest)

/-- A list of bytes up to its closing bracket. -/
theorem lexLine_bytesTail (b : IntegerForm) (p : List Byte) :
    lexLine [] (separated (p.map fun x => integerText b x.toNat) ++ [']']) =
      some (bytesTokens b p) := by
  match p with
  | [] => rfl
  | [x] =>
    simp only [List.map, separated]
    rw [lexLine_word_punctuation (integerText_word b _) (by rfl)]
    rfl
  | x :: y :: rest =>
    have ih := lexLine_bytesTail b (y :: rest)
    simp only [List.map, separated, List.append_assoc, List.cons_append, List.nil_append] at ih ⊢
    rw [lexLine_word_punctuation (integerText_word b _) (by rfl), lexLine_space, ih]
    rfl

/-- A list of bytes. -/
theorem lexLine_bytesText (b : IntegerForm) (p : List Byte) :
    lexLine [] (bytesText b p) = some (.lbracket :: bytesTokens b p) := by
  have := lexLine_bytesTail b p
  simp only [bytesText, List.cons_append]
  rw [lexLine_punctuation (by rfl), this]
  rfl

/-- The tokens of bytes are read back. -/
theorem bytesTail_bytesTokens (b : IntegerForm) (p : List Byte) (h : p ≠ []) :
    bytesTail (bytesTokens b p) = some p := by
  match p with
  | [x] => simp [bytesTokens, bytesTail, byteOf_integerText]
  | x :: y :: rest =>
    have ih := bytesTail_bytesTokens b (y :: rest) (by simp)
    simp [bytesTokens, bytesTail, byteOf_integerText, ih]

/-- The tokens of a list of bytes, the empty one included, are read back. -/
theorem bytesOf_bytesTokens (b : IntegerForm) (p : List Byte) :
    bytesOf (.lbracket :: bytesTokens b p) = some p := by
  cases p with
  | nil => rfl
  | cons x xs =>
    have := bytesTail_bytesTokens b (x :: xs) (by simp)
    cases xs <;> simpa [bytesTokens, bytesOf] using this

/-- The tokens of assignments, up to the closing brace. -/
def assignsTokens (b : IntegerForm) {R : RegType} : List (Assign R) → List Token
  | [] => [.rbrace]
  | [a] => [.word a.slot.name.toList, .equals, .word (valueText b a), .rbrace]
  | a :: a' :: rest =>
    .word a.slot.name.toList :: .equals :: .word (valueText b a) :: .comma ::
      assignsTokens b (a' :: rest)

/-- An assignment before a punctuation mark. -/
theorem lexLine_assignText (b : IntegerForm) {R : RegType} (a : Assign R) {c : Char} {t : Token}
    (hc : punctuation c = some t) (rest : List Char) :
    lexLine [] (assignText b a ++ c :: rest) = (lexLine [] rest).map fun ts =>
      .word a.slot.name.toList :: .equals :: .word (valueText b a) :: t :: ts := by
  simp only [assignText, List.append_assoc, List.cons_append, List.nil_append]
  rw [lexLine_word_space (slotName_word _), lexLine_punctuation (c := '=') (by rfl), lexLine_space,
    lexLine_word_punctuation (assignOf_valueText b a).2 hc]
  cases lexLine [] rest <;> rfl

/-- Assignments up to the closing brace. -/
theorem lexLine_assignsTail (b : IntegerForm) {R : RegType} (as : List (Assign R)) (h : as ≠ []) :
    lexLine [] (separated (as.map (assignText b)) ++ [Char.ofNat 0x7D]) =
      some (assignsTokens b as) := by
  match as with
  | [a] =>
    simp only [List.map, separated]
    rw [lexLine_assignText b a (by rfl)]
    rfl
  | a :: a' :: rest =>
    have ih := lexLine_assignsTail b (a' :: rest) (by simp)
    simp only [List.map, separated, List.append_assoc, List.cons_append, List.nil_append] at ih ⊢
    rw [lexLine_assignText b a (c := ',') (by rfl), lexLine_space, ih]
    rfl

/-- The tokens of assignments are read back. -/
theorem assignsTail_assignsTokens (b : IntegerForm) {R : RegType} (as : List (Assign R))
    (h : as ≠ []) : assignsTail R (assignsTokens b as) = some as := by
  match as with
  | [a] => simp [assignsTokens, assignsTail, (assignOf_valueText b a).1]
  | a :: a' :: rest =>
    have ih := assignsTail_assignsTokens b (a' :: rest) (by simp)
    simp [assignsTokens, assignsTail, (assignOf_valueText b a).1, ih]

/-- No mnemonic stands twice. -/
theorem mnemonics_nodup : (mnemonics.map Prod.fst).Nodup := by decide

/-- A mnemonic is one word. -/
theorem mnemonic_word (k : CommandKind) : IsWord k.mnemonic.toList := by
  cases k <;> exact ⟨by decide, by decide⟩

/-- A mnemonic hands its operands' tokens to its reader. -/
theorem parse_withOperands {k : CommandKind} {f : List Token → Option Line}
    (h : (k.mnemonic, f) ∈ mnemonics) (operands : List Char) :
    (lexLine [] (withOperands k.mnemonic (some operands))).bind parseTokens =
      (lexLine [] operands).bind f := by
  rw [withOperands, lexLine_word_space (mnemonic_word k)]
  cases lexLine [] operands <;> simp [parseTokens, pick_of_mem mnemonics_nodup h]

/-- A mnemonic without operands. -/
theorem parse_withoutOperands {k : CommandKind} {c : Instr}
    (h : (k.mnemonic, parseBare c) ∈ mnemonics) :
    (lexLine [] (withOperands k.mnemonic none)).bind parseTokens = some (.command c) := by
  rw [withOperands, lexLine_word_end (mnemonic_word k)]
  simp [parseTokens, pick_of_mem mnemonics_nodup h, parseBare]

/-- The operands of W_REGISTER, written out, read as its line. -/
theorem parseWrite_registerText (b : IntegerForm) (R : RegType) (as : List (Assign R)) :
    (lexLine [] (registerText b R as)).bind parseWrite = some (.writeRegister R as) := by
  cases as with
  | nil =>
    rw [registerText, List.append_nil, lexLine_word_end (regTypeName_word R)]
    simp [parseWrite, regTypeOf_name, assignsOf]
  | cons a as =>
    have ht := lexLine_assignsTail b (a :: as) (by simp)
    have ha := assignsTail_assignsTokens b (a :: as) (by simp)
    simp only [registerText, List.cons_append, List.nil_append]
    rw [lexLine_word_space (regTypeName_word R), lexLine_punctuation (by rfl), ht]
    simp [endWord, parseWrite, regTypeOf_name, assignsOf, ha]

/-- A command written out reads as its line. -/
theorem parse_lineText_command (b : IntegerForm) (c : Instr) :
    (lexLine [] (lineText b (.command c))).bind parseTokens =
      some (Line.command c).asWritten := by
  cases c with
  | rRegister R =>
    rw [lineText, operandsText,
      parse_withOperands (f := parseRead) (by simp [Instr.kind, CommandKind.mnemonic, mnemonics]),
      lexLine_word_end (regTypeName_word R)]
    simp [parseRead, regTypeOf_name, Line.asWritten]
  | wRegister R r =>
    rw [lineText, operandsText,
      parse_withOperands (f := parseWrite) (by simp [Instr.kind, CommandKind.mnemonic, mnemonics]),
      parseWrite_registerText]
    rfl
  | rRxPayload n =>
    rw [lineText, operandsText, parse_withOperands (f := parseReadPayload)
      (by simp [Instr.kind, CommandKind.mnemonic, mnemonics]),
      lexLine_word_end (integerText_word b n)]
    simp [parseReadPayload, integerOf_integerText, Line.asWritten]
  | wTxPayload p =>
    rw [lineText, operandsText, parse_withOperands
      (f := fun ts => (bytesOf ts).map fun p => .command (.wTxPayload p))
      (by simp [Instr.kind, CommandKind.mnemonic, mnemonics]), lexLine_bytesText]
    simp [bytesOf_bytesTokens, Line.asWritten]
  | wTxPayloadNoack p =>
    rw [lineText, operandsText, parse_withOperands
      (f := fun ts => (bytesOf ts).map fun p => .command (.wTxPayloadNoack p))
      (by simp [Instr.kind, CommandKind.mnemonic, mnemonics]), lexLine_bytesText]
    simp [bytesOf_bytesTokens, Line.asWritten]
  | wAckPayload pipe p =>
    rw [lineText, operandsText,
      parse_withOperands (f := parseAck) (by simp [Instr.kind, CommandKind.mnemonic, mnemonics])]
    simp only [List.append_assoc, List.cons_append, List.nil_append]
    rw [lexLine_word_punctuation (integerText_word b pipe) (by rfl), lexLine_space,
      lexLine_bytesText]
    simp [endWord, parseAck, integerOf_integerText, bytesOf_bytesTokens, Line.asWritten]
  | rRxPlWid => exact parse_withoutOperands (k := .rRxPlWid) (by simp [CommandKind.mnemonic, mnemonics])
  | flushTx => exact parse_withoutOperands (k := .flushTx) (by simp [CommandKind.mnemonic, mnemonics])
  | flushRx => exact parse_withoutOperands (k := .flushRx) (by simp [CommandKind.mnemonic, mnemonics])
  | reuseTxPl =>
    exact parse_withoutOperands (k := .reuseTxPl) (by simp [CommandKind.mnemonic, mnemonics])
  | nop => exact parse_withoutOperands (k := .nop) (by simp [CommandKind.mnemonic, mnemonics])
  | activate =>
    exact parse_withoutOperands (k := .activate) (by simp [CommandKind.mnemonic, mnemonics])

/-- A line written out reads as that line. -/
theorem parse_lineText (b : IntegerForm) (l : Line) :
    (lexLine [] (lineText b l)).bind parseTokens = some l.asWritten := by
  cases l with
  | command c => exact parse_lineText_command b c
  | writeRegister R as =>
    rw [lineText, parse_withOperands (f := parseWrite) (by simp [CommandKind.mnemonic, mnemonics]),
      parseWrite_registerText]
    rfl

/-- An assignment read off a register value names the slot it was read from. -/
@[simp] theorem reading_slot {R : RegType} (s : Slot R) (r : RegValue R) :
    (s.reading r).slot = s := by
  cases s <;> rfl

/-- A register value is written out slot by slot, in the order of the layout. -/
theorem assigns_slots {R : RegType} (r : RegValue R) :
    r.assigns.map Assign.slot = (layout R).filterMap (·.slot) := by
  unfold RegValue.assigns
  rw [List.map_filterMap]
  congr 1
  funext d
  cases d.slot <;> simp

/-- No slot stands twice in a layout. -/
theorem layout_slots_nodup (R : RegType) : ((layout R).filterMap (·.slot)).Nodup := by
  cases R <;> decide

end Sys2Proof.Machine
end

