-- ==== Sys2Proof/Laws/Operands.lean ====
section
/-!
SUPPORT. The operand forms and the construction checks, said once.
-/

namespace Sys2Proof.Machine

@[simp] theorem zeros_length (n : Nat) : (zeros n).length = n := List.length_replicate

@[simp] theorem order_length (o : PayloadOrder) (p : List Byte) : (order o p).length = p.length := by
  cases o <;> simp [order]

/-- Either order undoes itself. -/
@[simp] theorem order_order (o : PayloadOrder) (p : List Byte) : order o (order o p) = p := by
  cases o <;> simp [order]

/-- What the payload check can answer. -/
theorem payloadError_eq_none {kind : CommandKind} {p : List Byte} :
    payloadError kind p = none ↔ 1 ≤ p.length ∧ p.length ≤ 32 := by
  unfold payloadError Config.maxPayload
  split <;> simp <;> omega

theorem payloadError_eq_some {kind : CommandKind} {p : List Byte} {e : ConstructionError} :
    payloadError kind p = some e ↔
      ¬(1 ≤ p.length ∧ p.length ≤ 32) ∧ e = .payloadLengthOutOfRange kind p.length := by
  unfold payloadError Config.maxPayload
  split <;> simp <;> grind

/-- What the read-length check can answer. -/
theorem readLengthError_eq_none {n : Nat} : readLengthError n = none ↔ 1 ≤ n ∧ n ≤ 32 := by
  unfold readLengthError Config.maxPayload
  split <;> simp <;> omega

theorem readLengthError_eq_some {n : Nat} {e : ConstructionError} :
    readLengthError n = some e ↔ ¬(1 ≤ n ∧ n ≤ 32) ∧ e = .readLengthOutOfRange n := by
  unfold readLengthError Config.maxPayload
  split <;> simp <;> grind

/-- What the checks of W_ACK_PAYLOAD can answer: the pipe is looked at first. -/
theorem ackError_eq_none {pipe : Nat} {p : List Byte} :
    ackError pipe p = none ↔ pipe ≤ 5 ∧ 1 ≤ p.length ∧ p.length ≤ 32 := by
  unfold ackError Config.maxPipe
  split
  · simp; omega
  · rw [payloadError_eq_none]; omega

theorem ackError_eq_some {pipe : Nat} {p : List Byte} {e : ConstructionError} :
    ackError pipe p = some e ↔
      (5 < pipe ∧ e = .invalidPipe pipe) ∨
      (pipe ≤ 5 ∧ ¬(1 ≤ p.length ∧ p.length ≤ 32) ∧
        e = .payloadLengthOutOfRange .wAckPayload p.length) := by
  unfold ackError Config.maxPipe
  split
  · grind
  · rw [payloadError_eq_some]; grind

/-- The checks refuse exactly the commands outside R98's ranges. -/
theorem commandError_eq_none {i : Instr} : commandError i = none ↔ i.wellFormed = true := by
  cases i <;> simp only [commandError, Instr.wellFormed, readLengthError_eq_none,
    payloadError_eq_none, ackError_eq_none, Bool.and_eq_true, decide_eq_true_eq]

end Sys2Proof.Machine
end

