-- ==== Sys2Proof/Laws/PerInstr.lean ====
section
/-!
SUPPORT. The per-instruction family OpcodeFits: the opcode byte of a well-formed command's frame
matches the row of its own kind in the opcode map, and that row alone is found (30_encoding.md R70,
R72).
-/

namespace Sys2Proof.Laws.OpcodeFits

/-- The opcode of the command's frame names the command's kind. -/
def Statement (i : Instr) : Prop :=
  i.wellFormed = true → CommandKind.ofOpcode (i.kind.template ||| i.operandBits) = some i.kind

/-- The REG-form opcodes of every register type. -/
theorem regForm (R : RegType) :
    CommandKind.ofOpcode (CommandKind.template .rRegister ||| R.address) = some .rRegister ∧
    CommandKind.ofOpcode (CommandKind.template .wRegister ||| R.address) = some .wRegister := by
  cases R <;> decide

/-- The opcode templates themselves: those of the FIXED form are whole opcodes. -/
theorem template (k : CommandKind) : CommandKind.ofOpcode (k.template ||| 0) = some k := by
  cases k <;> decide

theorem rRegister (R : RegType) : Statement (.rRegister R) := fun _ => (regForm R).1

theorem wRegister (R : RegType) (r : RegValue R) : Statement (.wRegister R r) :=
  fun _ => (regForm R).2

theorem rRxPayload (n : Nat) : Statement (.rRxPayload n) := fun _ => template _

theorem rRxPlWid : Statement .rRxPlWid := fun _ => template _

theorem wTxPayload (p : List Byte) : Statement (.wTxPayload p) := fun _ => template _

theorem wAckPayload (pipe : Nat) (p : List Byte) : Statement (.wAckPayload pipe p) := by
  intro h
  have hp : pipe ≤ 5 := by
    simp only [Instr.wellFormed, Config.maxPipe, Bool.and_eq_true] at h
    exact of_decide_eq_true h.1
  show CommandKind.ofOpcode (CommandKind.template .wAckPayload ||| BitVec.ofNat 8 pipe) = some .wAckPayload
  interval_cases pipe <;> decide

theorem wTxPayloadNoack (p : List Byte) : Statement (.wTxPayloadNoack p) := fun _ => template _

theorem flushTx : Statement .flushTx := fun _ => template _

theorem flushRx : Statement .flushRx := fun _ => template _

theorem reuseTxPl : Statement .reuseTxPl := fun _ => template _

theorem nop : Statement .nop := fun _ => template _

theorem activate : Statement .activate := fun _ => template _

end Sys2Proof.Laws.OpcodeFits
end

