-- ==== Sys2Proof/Laws/Registers.lean ====
section
/-!
SUPPORT. Small facts about slots and bytes, so that later proofs need not unfold them.
-/

namespace Sys2Proof

/-- A raw slot holds a value of its N bits (10_state.md R22). -/
theorem RegValue.getRaw_lt {R : RegType} (s : RawSlot R) (r : RegValue R) :
    r.getRaw s < 2 ^ s.width := by
  cases s <;> cases r <;> simp only [RegValue.getRaw, RawSlot.width] <;> exact BitVec.isLt _

/-- A raw slot reads as the value put there, if it fits. -/
theorem RegValue.getRaw_putRaw {R : RegType} (s : RawSlot R) (v : Nat) (r : RegValue R)
    (h : v < 2 ^ s.width) : (r.putRaw s v).getRaw s = v := by
  cases s <;> cases r <;> simp only [RegValue.putRaw, RegValue.getRaw, RawSlot.width,
    BitVec.toNat_ofNat] at * <;> exact Nat.mod_eq_of_lt h

/-- A bool slot reads as it was set. -/
@[simp] theorem RegValue.getBool_withBool {R : RegType} (s : BoolSlot R) (v : Bool)
    (r : RegValue R) : (r.withBool s v).getBool s = v := by
  cases s <;> cases r <;> rfl

/-- When a raw setter succeeds, and with what. -/
theorem RegValue.withRaw_ok {R : RegType} {s : RawSlot R} {v : Nat} {r r' : RegValue R} :
    r.withRaw s v = .ok r' ↔ v < 2 ^ s.width ∧ r' = r.putRaw s v := by
  unfold RegValue.withRaw
  split <;> simp <;> grind

/-- When a raw setter raises, and what. -/
theorem RegValue.withRaw_error {R : RegType} {s : RawSlot R} {v : Nat} {r : RegValue R}
    {e : ConstructionError} : r.withRaw s v = .error e ↔
      2 ^ s.width ≤ v ∧ e = .rawFieldOverflow R s v s.width := by
  unfold RegValue.withRaw
  split <;> simp <;> grind

/-- `le_bytes_W` gives W bytes. -/
@[simp] theorem leBytes_length (w : Nat) (v : BitVec 40) : (leBytes w v).length = w := by
  simp [leBytes]

end Sys2Proof
end

