-- ==== Sys2Proof/Laws/State.lean ====
section
/-!
SUPPORT. Each field after each update of the state.
-/

namespace Sys2Proof.Machine

@[simp] theorem State.addFrame_payloadOrder (s : State) (f : Frame) :
    (s.addFrame f).payloadOrder = s.payloadOrder := rfl
@[simp] theorem State.addFrame_pending (s : State) (f : Frame) :
    (s.addFrame f).pending = s.pending := rfl
@[simp] theorem State.addFrame_frames (s : State) (f : Frame) :
    (s.addFrame f).frames = s.frames ++ [f] := rfl
@[simp] theorem State.addFrame_errors (s : State) (f : Frame) :
    (s.addFrame f).errors = s.errors := rfl

@[simp] theorem State.addError_payloadOrder (s : State) (e : ConstructionError) :
    (s.addError e).payloadOrder = s.payloadOrder := rfl
@[simp] theorem State.addError_pending (s : State) (e : ConstructionError) :
    (s.addError e).pending = s.pending := rfl
@[simp] theorem State.addError_frames (s : State) (e : ConstructionError) :
    (s.addError e).frames = s.frames := rfl
@[simp] theorem State.addError_errors (s : State) (e : ConstructionError) :
    (s.addError e).errors = s.errors ++ [e] := rfl

@[simp] theorem State.setPending_payloadOrder (s : State) (ps : List Presented) :
    (s.setPending ps).payloadOrder = s.payloadOrder := rfl
@[simp] theorem State.setPending_pending (s : State) (ps : List Presented) :
    (s.setPending ps).pending = ps := rfl
@[simp] theorem State.setPending_frames (s : State) (ps : List Presented) :
    (s.setPending ps).frames = s.frames := rfl
@[simp] theorem State.setPending_errors (s : State) (ps : List Presented) :
    (s.setPending ps).errors = s.errors := rfl

@[simp] theorem State.present_payloadOrder (s : State) (ps : List Presented) :
    (s.present ps).payloadOrder = s.payloadOrder := rfl
@[simp] theorem State.present_pending (s : State) (ps : List Presented) :
    (s.present ps).pending = ps ++ s.pending := rfl
@[simp] theorem State.present_frames (s : State) (ps : List Presented) :
    (s.present ps).frames = s.frames := rfl
@[simp] theorem State.present_errors (s : State) (ps : List Presented) :
    (s.present ps).errors = s.errors := rfl

end Sys2Proof.Machine
end

