-- ==== Sys2Proof/Laws/Step.lean ====
section
/-!
SUPPORT. Everything the shared operations, a command and a step can do, each said once.
-/

namespace Sys2Proof.Machine

theorem emit_next {f : Frame} {s t : State} : emit f s = .next t ↔ t = s.addFrame f := by
  simp [emit, eq_comm]

theorem raise_next {e : ConstructionError} {s t : State} :
    raise e s = .next t ↔ t = s.addError e := by
  simp [raise, eq_comm]

/-- A construction returns its error or emits its frame. -/
theorem construct_next {error : Option ConstructionError} {f : Frame} {s t : State} :
    construct error f s = .next t ↔
      (∃ e, error = some e ∧ t = s.addError e) ∨ (error = none ∧ t = s.addFrame f) := by
  cases error <;> simp [construct, emit_next, raise_next]

/-- A program is refused for a slot assigned twice, returns the error of a failing line, or stands its
commands next. -/
theorem submit_next {lines : List Line} {s t : State} (h : submit lines s = .next t) :
    lines.all Line.slotsOnce ∧
      ((∃ e, buildProgram lines = .error e ∧ t = s.addError e) ∨
       (∃ cs, buildProgram lines = .ok cs ∧ t = s.present (cs.map .command))) := by
  unfold submit at h
  split at h
  · refine ⟨by assumption, ?_⟩
    split at h
    · exact .inl ⟨_, by assumption, raise_next.1 h⟩
    · exact .inr ⟨_, by assumption, by simpa using h.symm⟩
  · cases h

/-- A command appends one frame, or returns the error its construction raises. -/
theorem exec_next {i : Instr} {s t : State} (h : exec i s = .next t) :
    (∃ e, commandError i = some e ∧ t = s.addError e) ∨
      (commandError i = none ∧ ∃ f, t = s.addFrame f) := by
  cases i <;> simp only [exec, execRRegister, execWRegister, execRRxPayload, execRRxPlWid,
    execWTxPayload, execWAckPayload, execWTxPayloadNoack, execFlushTx, execFlushRx, execReuseTxPl,
    execNop, execActivate, emit_next, construct_next] at h <;> simp only [commandError] <;> grind

/-- Everything a step that answers a next state can have done. -/
theorem step_next {s t : State} (h : step s = .next t) :
    (s.pending = [] ∧ t = s) ∨
    (∃ i rest, (s.pending = .command i :: rest ∨
        ∃ bytes, s.pending = .frame bytes :: rest ∧ decodeFrame s.payloadOrder bytes = .ok i) ∧
      exec i (s.setPending rest) = .next t) ∨
    (∃ lines rest, (s.pending = .program lines :: rest ∨
        ∃ source, s.pending = .text source :: rest ∧ parseProgram source = some lines) ∧
      submit lines (s.setPending rest) = .next t) := by
  unfold step fetch at h
  split at h
  · rename_i i s' hf
    right; left
    split at hf
    · cases hf
    · cases hf
      exact ⟨i, _, .inl (by assumption), h⟩
    · split at hf
      · cases hf
        exact ⟨i, _, .inr ⟨_, by assumption, by assumption⟩, h⟩
      · cases hf
    · cases hf
    · split at hf <;> cases hf
  · rename_i a hf
    split at hf
    · cases hf
      exact .inl ⟨by assumption, by simpa using h.symm⟩
    · cases hf
    · split at hf
      · cases hf
      · cases hf; cases h
    · cases hf
      exact .inr (.inr ⟨_, _, .inl (by assumption), h⟩)
    · split at hf
      · cases hf
        exact .inr (.inr ⟨_, _, .inr ⟨_, by assumption, by assumption⟩, h⟩)
      · cases hf; cases h

end Sys2Proof.Machine
end

