-- ==== Sys2Proof/Tests/Slice0.lean ====
section
/-!
SUPPORT. The model's own tests. Expected results are the vectors of 95_test_vectors.md, or words written
out by hand from 30_encoding.md R69 and the tables of 10_state.md. The theorems named `witness_...` show
that the hypotheses of the statements can be met, each at the edges of its ranges.
-/

namespace Sys2Proof.Tests

open Sys2Proof Sys2Proof.Machine

/-- Thirty-two and thirty-three bytes. -/
def bytes32 : List Byte := List.replicate 32 0xA5
def bytes33 : List Byte := List.replicate 33 0xA5

/-- The reset state with the other payload order. -/
def reversed : State := { State.reset with payloadOrder := .reverse }

/-- The reset state with something presented. -/
def presenting (ps : List Presented) : State := State.reset.present ps

/-- The frames of an answer; none if it is no next state. -/
def framesOf : Answer → Option (List Frame)
  | .next s => some s.frames
  | .fault _ => none
  | .refused _ => none

/-- The errors of an answer; none if it is no next state. -/
def errorsOf : Answer → Option (List ConstructionError)
  | .next s => some s.errors
  | .fault _ => none
  | .refused _ => none

/-- The packed bytes of the value a W_REGISTER line builds. -/
def packedBy (R : RegType) (as : List (Assign R)) : Option (List Byte) :=
  match (RegValue.withDefaults R).withSlots as with
  | .ok r => some r.pack
  | .error _ => none

/-! ### Ill-formed terms are refused: one for each check of WellFormed -/

theorem test_wellFormed_refuses :
    ([.rRxPayload 0, .rRxPayload 33, .wTxPayload [], .wTxPayload bytes33, .wAckPayload 6 [0x01],
      .wAckPayload 5 [], .wAckPayload 0 bytes33, .wTxPayloadNoack [], .wTxPayloadNoack bytes33].map
        Instr.wellFormed).all (· == false) := by decide

theorem test_wellFormed_accepts :
    ([.rRegister .feature, .wRegister .rpd (.rpd true), .rRxPayload 1, .rRxPayload 32, .rRxPlWid,
      .wTxPayload [0x00], .wTxPayload bytes32, .wAckPayload 0 [0x01], .wAckPayload 5 bytes32,
      .wTxPayloadNoack bytes32, .flushTx, .flushRx, .reuseTxPl, .nop, .activate].map
        Instr.wellFormed).all (· == true) := by decide

/-! ### Decoding: words written out bit by bit from R69 -/

theorem test_decode_rRegister :
    decodeFrame .preserve [0b000_10111, 0x00] = .ok (.rRegister .fifoStatus) := by decide
theorem test_decode_rRegister_wide :
    decodeFrame .preserve [0b000_01010, 0, 0, 0, 0, 0] = .ok (.rRegister .rxAddrP0) := by decide
theorem test_decode_wRegister :
    decodeFrame .preserve [0b001_00000, 0b0100_0110] =
      .ok (.wRegister .config (.config
        { maskRxDr := true, maskTxDs := false, maskMaxRt := false, enCrc := false
          crco := .twoBytes, pwrUp := true, primRx := false })) := by decide
theorem test_decode_wRegister_wide :
    decodeFrame .preserve [0b001_10000, 0x05, 0x04, 0x03, 0x02, 0x01] =
      .ok (.wRegister .txAddr (.txAddr 0x0102030405)) := by decide
theorem test_decode_rRxPayload :
    decodeFrame .preserve [0b0110_0001, 0, 0, 0, 0] = .ok (.rRxPayload 4) := by decide
theorem test_decode_rRxPlWid :
    decodeFrame .preserve [0b0110_0000, 0] = .ok .rRxPlWid := by decide
theorem test_decode_wTxPayload :
    decodeFrame .reverse [0b1010_0000, 3, 2, 1] = .ok (.wTxPayload [1, 2, 3]) := by decide
theorem test_decode_wAckPayload :
    decodeFrame .preserve [0b10101_101, 0x11, 0x22] = .ok (.wAckPayload 5 [0x11, 0x22]) := by decide
theorem test_decode_wTxPayloadNoack :
    decodeFrame .preserve [0b1011_0000, 0x7F] = .ok (.wTxPayloadNoack [0x7F]) := by decide
theorem test_decode_flushTx : decodeFrame .preserve [0b1110_0001] = .ok .flushTx := by decide
theorem test_decode_flushRx : decodeFrame .preserve [0b1110_0010] = .ok .flushRx := by decide
theorem test_decode_reuseTxPl : decodeFrame .preserve [0b1110_0011] = .ok .reuseTxPl := by decide
theorem test_decode_nop : decodeFrame .preserve [0b1111_1111] = .ok .nop := by decide
theorem test_decode_activate :
    decodeFrame .preserve [0b0101_0000, 0b0111_0011] = .ok .activate := by decide
theorem test_decode_refuses :
    decodeFrame .preserve [] = .error .emptyFrame ∧
    decodeFrame .preserve [0x50, 0x00] = .error (.dataValue .activate) ∧
    decodeFrame .preserve [0x61] = .error (.dataLength .rRxPayload 0) ∧
    decodeFrame .preserve [0xA1, 0x00] = .error (.undefinedOpcode 0xA1) ∧
    decodeFrame .preserve [0x00, 0x01] = .error (.dataValue .rRegister) := by decide

/-- The rows of the opcode table, as the host numbers their bits. -/
theorem test_table_words :
    [0x00, 0x20, 0x61, 0x60, 0xA0, 0xA8, 0xB0, 0xE1, 0xE2, 0xE3, 0xFF, 0x50].map
        (fun w => (decodeTableWord 8 w).map Instr.kind) =
      CommandKind.all.map some := by decide

/-- No two rows of the opcode map match one opcode. -/
theorem test_rows_do_not_overlap :
    CommandKind.all.Pairwise fun j k =>
      j.template &&& (j.mask &&& k.mask) ≠ k.template &&& (j.mask &&& k.mask) := by decide

/-! ### The commands: the frames of L2-2, L2-5, L2-6 -/

theorem test_rRegister :
    framesOf (exec (.rRegister .fifoStatus) reversed) = some [[0x17, 0x00]] := by decide
theorem test_rRegister_wide :
    framesOf (exec (.rRegister .txAddr) State.reset) = some [[0x10, 0, 0, 0, 0, 0]] := by decide
theorem test_wRegister_config :
    framesOf (exec (.wRegister .config (.config
      { maskRxDr := true, maskTxDs := false, maskMaxRt := false, enCrc := false
        crco := .twoBytes, pwrUp := true, primRx := false })) State.reset) =
      some [[0b0010_0000, 0b0100_0110]] := by decide
theorem test_wRegister_wide_is_not_reordered :
    framesOf (exec (.wRegister .rxAddrP0 (.rxAddrP0 0x1122334455)) reversed) =
      some [[0x2A, 0x55, 0x44, 0x33, 0x22, 0x11]] := by decide
theorem test_rRxPayload : framesOf (exec (.rRxPayload 4) State.reset) = some [[0x61, 0, 0, 0, 0]] := by
  decide
theorem test_rRxPayload_33 :
    errorsOf (exec (.rRxPayload 33) State.reset) = some [.readLengthOutOfRange 33] := by decide
theorem test_rRxPlWid : framesOf (exec .rRxPlWid State.reset) = some [[0x60, 0x00]] := by decide
theorem test_wTxPayload_preserve :
    framesOf (exec (.wTxPayload [1, 2, 3, 4, 5, 6, 7, 8, 9]) State.reset) =
      some [[0b1010_0000, 1, 2, 3, 4, 5, 6, 7, 8, 9]] := by decide
theorem test_wTxPayload_reverse :
    framesOf (exec (.wTxPayload [1, 2, 3, 4, 5, 6, 7, 8, 9]) reversed) =
      some [[0b1010_0000, 9, 8, 7, 6, 5, 4, 3, 2, 1]] := by decide
theorem test_wAckPayload :
    framesOf (exec (.wAckPayload 1 [0x11, 0x22, 0x33]) reversed) =
      some [[0xA9, 0x33, 0x22, 0x11]] := by decide
theorem test_wAckPayload_pipe_first :
    errorsOf (exec (.wAckPayload 7 []) State.reset) = some [.invalidPipe 7] := by decide
theorem test_wTxPayloadNoack :
    framesOf (exec (.wTxPayloadNoack [0xDE, 0xAD]) State.reset) = some [[0xB0, 0xDE, 0xAD]] := by decide
theorem test_wTxPayloadNoack_empty :
    errorsOf (exec (.wTxPayloadNoack []) State.reset) =
      some [.payloadLengthOutOfRange .wTxPayloadNoack 0] := by decide
theorem test_flushTx : framesOf (exec .flushTx State.reset) = some [[0xE1]] := by decide
theorem test_flushRx : framesOf (exec .flushRx State.reset) = some [[0xE2]] := by decide
theorem test_reuseTxPl : framesOf (exec .reuseTxPl State.reset) = some [[0xE3]] := by decide
theorem test_nop : framesOf (exec .nop State.reset) = some [[0xFF]] := by decide
theorem test_activate : framesOf (exec .activate State.reset) = some [[0x50, 0x73]] := by decide

/-! ### Packing: vectors of L2-3 -/

theorem test_pack_config :
    packedBy .config [.bool .pwrUp true, .bool .primRx true] = some [0x0B] ∧
    packedBy .config [.bool .maskRxDr true, .bool .maskTxDs true, .bool .maskMaxRt true,
      .crco .twoBytes, .bool .pwrUp true, .bool .primRx true] = some [0x7F] ∧
    packedBy .config [.bool .enCrc false] = some [0x00] := by decide
theorem test_pack_enums :
    packedBy .setupAw [.aw .bytes4] = some [0x02] ∧
    packedBy .setupRetr [.ard .us1500, .raw .arc 0] = some [0x50] ∧
    packedBy .setupRetr [.ard .us4000, .raw .arc 15] = some [0xFF] ∧
    packedBy .rfSetup [.rfDr .kbps250] = some [0x26] ∧
    packedBy .rfSetup [.bool .contWave true, .rfPwr .neg12Dbm] = some [0x8A] := by decide
theorem test_pack_status :
    packedBy .status [.bool .rxDr true, .bool .txDs true, .bool .maxRt true] = some [0x7E] ∧
    packedBy .status [.raw .rxPNo 6, .bool .txFull true] = some [0x0D] ∧
    packedBy .observeTx [.raw .plosCnt 1, .raw .arcCnt 2] = some [0x12] ∧
    packedBy .fifoStatus [.bool .txReuse true, .bool .fifoTxFull true, .bool .txEmpty false,
      .bool .rxFull true, .bool .rxEmpty false] = some [0x62] := by decide
theorem test_pack_pipes :
    packedBy .enRxaddr [.bool .erxP5 true] = some [0x23] ∧
    packedBy .dynpd [.bool .dplP0 true, .bool .dplP1 true] = some [0x03] ∧
    packedBy .feature [.bool .enDynAck true] = some [0x01] ∧
    packedBy .rxPwP3 [.raw .rxPwP3 63] = some [0x3F] ∧
    packedBy .rxAddrP5 [.raw .rxAddrP5 255] = some [0xFF] ∧
    packedBy .rpd [.bool .rpd true] = some [0x01] ∧
    packedBy .rfCh [.raw .rfCh 76] = some [0x4C] := by decide

/-! ### Refusals of setters and of `unpack`: vectors of L2-3 and L2-4 -/

theorem test_setters_refuse :
    (RegValue.withDefaults .rfCh).withSlot (.raw .rfCh 128) =
      .error (.rawFieldOverflow .rfCh .rfCh 128 7) ∧
    (RegValue.withDefaults .txAddr).withSlot (.raw .txAddr (2 ^ 40)) =
      .error (.rawFieldOverflow .txAddr .txAddr (2 ^ 40) 40) ∧
    (RegValue.withDefaults .rxPwP0).withSlot (.raw .rxPwP0 64) =
      .error (.rawFieldOverflow .rxPwP0 .rxPwP0 64 6) := by decide
theorem test_unpack_refuses :
    RegValue.unpack .config [0xFF] = .error (.reservedBitSet .config 7) ∧
    RegValue.unpack .config [0x08, 0x00] = .error (.wrongLength .config 2) ∧
    RegValue.unpack .setupAw [0x04] = .error (.invalidCode .addressWidth 0) ∧
    RegValue.unpack .rfSetup [0x50] = .error (.invalidCode .dataRate 2) ∧
    RegValue.unpack .rfSetup [0x51] = .error (.reservedBitSet .rfSetup 0) ∧
    RegValue.unpack .rfSetup [0x40] = .error (.reservedBitSet .rfSetup 6) ∧
    RegValue.unpack .fifoStatus [0x0C] = .error (.reservedBitSet .fifoStatus 2) := by decide
theorem test_unpack_accepts :
    RegValue.unpack .status [0x0E] = .ok (RegValue.withDefaults .status) ∧
    RegValue.unpack .txAddr [0x05, 0x04, 0x03, 0x02, 0x01] = .ok (.txAddr 0x0102030405) ∧
    RegValue.unpack .setupRetr [0xFF] = .ok (.setupRetr { ard := .us4000, arc := 15 }) := by decide

/-! ### Programs and text: lines of P1, P3, P4 -/

/-- `W_REGISTER R`, then assignments in braces. -/
def writeText (R body : String) : List Char :=
  "W_REGISTER ".toList ++ R.toList ++ [' ', Char.ofNat 0x7B] ++ body.toList ++ [Char.ofNat 0x7D]

theorem test_text_write :
    parseProgram (writeText "SetupRetr" " ard = Us500, arc = 0b1111 " ++ " ; P1 line 1".toList) =
      some [.writeRegister .setupRetr [.ard .us500, .raw .arc 15]] ∧
    parseProgram (writeText "TxAddr" "tx_addr=0x01_0203_0405") =
      some [.writeRegister .txAddr [.raw .txAddr 0x0102030405]] ∧
    parseProgram "W_REGISTER Config".toList = some [.writeRegister .config []] := by decide
theorem test_text_program :
    parseProgram "NOP\n; nothing\nW_ACK_PAYLOAD 1, [0x11, 34, 0x33]\n\nR_RX_PAYLOAD 4".toList =
      some [.command .nop, .command (.wAckPayload 1 [0x11, 0x22, 0x33]),
        .command (.rRxPayload 4)] := by decide
theorem test_text_refused :
    parseProgram "R_REGISTER Nothing".toList = none ∧
    parseProgram "NOP NOP".toList = none ∧
    parseProgram "W_TX_PAYLOAD [256]".toList = none ∧
    parseProgram (writeText "Config" "rf_ch = 1") = none ∧
    parseProgram (writeText "Config" "crco = 1") = none := by decide

/-- The underscore in integers: R6's example, and the model's choices of notes/assumptions/11.md. -/
theorem test_text_underscores :
    integerOf "0b0010_1010".toList = some 0x2A ∧ integerOf "1_".toList = some 1 ∧
    integerOf "1__0".toList = some 10 ∧ integerOf "_1".toList = none ∧
    integerOf "0x_2A".toList = none := by decide

/-- Lines of P1 and P3 written out, word for word but for the notation of the integers and the spaces
inside the braces. -/
theorem test_text_written :
    programText .decimal [.writeRegister .setupRetr [.ard .us500, .raw .arc 15]] =
      writeText "SetupRetr" "ard = Us500, arc = 15" ++ ['\n'] ∧
    programText .hex [.command (.wAckPayload 1 [0x11, 0x22, 0x33]), .command .flushTx] =
      "W_ACK_PAYLOAD 0x1, [0x11, 0x22, 0x33]\nFLUSH_TX\n".toList ∧
    programText .binary [.command (.rRegister .fifoStatus), .command (.rRxPayload 4)] =
      "R_REGISTER FifoStatus\nR_RX_PAYLOAD 0b100\n".toList := by decide

/-- P4: the first failing line's error, and no frame. -/
def refusedProgram : List Line :=
  [.writeRegister .rfCh [.raw .rfCh 2], .command (.wAckPayload 6 [0x01]),
   .writeRegister .rfCh [.raw .rfCh 128]]

theorem test_program_refused :
    framesOf (step (presenting [.program refusedProgram])) = some [] ∧
    errorsOf (step (presenting [.program refusedProgram])) = some [.invalidPipe 6] := by decide

/-! ### The step on a placed word -/

theorem test_step_runs_placed_word :
    framesOf (step (State.reset.withFetchWord 8 0x20)) = some [[0x20, 0x00]] ∧
    framesOf (step (State.reset.withFetchWord 8 0xAD)) = some [[0xAD, 0x00]] ∧
    framesOf (step (State.reset.withFetchWord 8 0x50)) = some [[0x50, 0x73]] := by decide
theorem test_step_refuses_placed_word :
    framesOf (step (State.reset.withFetchWord 8 0xAE)) = none := by decide

/-! ### Witnesses: the hypotheses of the statements, met at the edges of their ranges -/

theorem witness_FieldDecodeInvertsTheCodes :
    (∀ e, AddressWidth.code e ≠ 0b00) ∧ (∀ e, DataRate.code e ≠ 0b101) := by
  constructor <;> (intro e; cases e <;> decide)

theorem witness_RegisterAddressesIdentifyTypes :
    RegType.feature.address = RegType.feature.address := rfl

theorem witness_UnassignedAddressesCannotBeNamed :
    (0x18 : Byte) ∈ [0x18, 0x19, 0x1A, 0x1B, 0x1E, (0x1F : Byte)] ∧
    (0x1F : Byte) ∈ [0x18, 0x19, 0x1A, 0x1B, 0x1E, (0x1F : Byte)] := by decide

theorem witness_LayoutsFollowTheFieldTables :
    RegType.txAddr ∈ [RegType.rxAddrP0, .rxAddrP1, .txAddr] := by decide

theorem witness_PipeLayoutsFollowTheFieldTables :
    RegType.rxPwP5 ∈ [RegType.rxPwP0, .rxPwP1, .rxPwP2, .rxPwP3, .rxPwP4, .rxPwP5] ∧ 63 < 64 := by
  decide

theorem witness_SlotsTileTheRegister :
    7 < 8 * RegType.config.width ∧ (layout .config).reverse.Perm (layout .config) :=
  ⟨by decide, List.reverse_perm _⟩

theorem witness_SetterReplacesExactlyOneSlot :
    (Assign.raw .arc 16 = .raw .arc 16 ∧ 2 ^ RawSlot.arc.width ≤ 16) ∧
    (∀ s v, Assign.raw .arc 15 = .raw s v → v < 2 ^ s.width) ∧
    (Slot.ard ≠ (Assign.raw RawSlot.arc 15).slot) ∧
    (RegValue.withDefaults .setupRetr).slotCode (.raw .arc) = (Assign.raw RawSlot.arc 3).code := by
  refine ⟨by decide, ?_, by decide, by decide⟩
  intro s v h
  cases h
  decide

theorem witness_SettersCommuteAndOverwrite :
    (∃ ra, (RegValue.withDefaults .config).withSlot (.bool .pwrUp true) = .ok ra) ∧
    (Assign.bool .pwrUp true).slot = (Assign.bool .pwrUp false).slot ∧
    (Assign.bool .pwrUp true).slot ≠ (Assign.bool .primRx true).slot ∧
    (∃ rb, (RegValue.withDefaults .config).withSlot (.bool .primRx true) = .ok rb) :=
  ⟨⟨_, rfl⟩, by decide, by decide, ⟨_, rfl⟩⟩

theorem witness_PackPlacesEverySlot : (⟨none, 7, 1⟩ : SlotDesc .config) ∈ layout .config := by decide

theorem witness_FullWidthAddressesPackLowByteFirst :
    (RegValue.txAddr 1).pack ∈
      [(RegValue.rxAddrP0 1).pack, (RegValue.rxAddrP1 1).pack, (RegValue.txAddr 1).pack] := by decide

theorem witness_PackInvertsUnpack :
    RegValue.unpack .status [0x0E] = .ok (RegValue.withDefaults .status) ∧
    (RegValue.rpd true).pack = (RegValue.rpd true).pack := by decide

theorem witness_UnpackChecksTheLength :
    ([] : List Byte).length ≠ RegType.config.width ∧
    ([0x00] : List Byte).length = RegType.config.width ∧
    ([0, 0, 0, 0] : List Byte).length ≠ RegType.txAddr.width ∧
    ([0, 0, 0, 0, 0] : List Byte).length = RegType.txAddr.width := by decide

theorem witness_UnpackRefusesReservedBits :
    ([0x80] : List Byte).length = RegType.config.width ∧
    (⟨none, 7, 1⟩ : SlotDesc .config) ∈ layout .config ∧
    bitsAt (leValue [0x80]) 7 1 ≠ 0 := by decide

theorem witness_FirstErrorFoundIsReported :
    (RegValue.withDefaults .rfCh).withSlot (.raw .rfCh 128) =
      .error (.rawFieldOverflow .rfCh .rfCh 128 7) ∧
    5 < 6 ∧ ([] : List Byte).length = 0 ∧ 32 < bytes33.length ∧
    ([] : List Byte).length ≠ RegType.rfSetup.width ∧
    ([0x51] : List Byte).length = RegType.rfSetup.width ∧
    (layout .rfSetup).findSome? (slotError (leValue [0x51])) = some (.reservedBitSet .rfSetup 0) ∧
    (layout .rfSetup).findSome? (slotError (leValue [0x26])) = none := by decide

theorem witness_RRxPayloadEmitsPaddingOrRefuses :
    (1 ≤ 1 ∧ 1 ≤ 32) ∧ (1 ≤ 32 ∧ 32 ≤ 32) ∧ (0 = 0 ∨ 32 < 0) ∧ (33 = 0 ∨ 32 < 33) := by decide

theorem witness_payload_lengths :
    (1 ≤ [(0x42 : Byte)].length ∧ [(0x42 : Byte)].length ≤ 32) ∧
    (1 ≤ bytes32.length ∧ bytes32.length ≤ 32) ∧
    State.reset.payloadOrder = .preserve ∧ reversed.payloadOrder = .reverse ∧
    ([] : List Byte).length = 0 ∧ 32 < bytes33.length := by decide

theorem witness_WTxPayloadEmitsPayloadOrRefuses :
    1 ≤ bytes32.length ∧ bytes32.length ≤ 32 ∧ reversed.payloadOrder = .reverse ∧
    32 < bytes33.length := by decide

theorem witness_WAckPayloadEmitsPayloadOrRefuses :
    0 ≤ 5 ∧ 5 ≤ 5 ∧ 1 ≤ bytes32.length ∧ bytes32.length ≤ 32 ∧ 5 < 6 ∧ 32 < bytes33.length := by
  decide

theorem witness_WTxPayloadNoackEmitsPayloadOrRefuses :
    1 ≤ [(0x7F : Byte)].length ∧ [(0x7F : Byte)].length ≤ 32 ∧ reversed.payloadOrder = .reverse ∧
    ([] : List Byte).length = 0 := by decide

theorem witness_PayloadLengthsOutOfRangeAreRefused :
    (([] : List Byte).length = 0 ∨ 32 < ([] : List Byte).length) ∧
    (bytes33.length = 0 ∨ 32 < bytes33.length) ∧
    ∃ pipe, pipe ≤ 5 ∧ Instr.wAckPayload 5 bytes33 = .wAckPayload pipe bytes33 :=
  ⟨by decide, by decide, 5, by decide, rfl⟩

theorem witness_IllFormedCommandsOnlyReturnAnError : (Instr.rRxPayload 33).wellFormed = false := by
  decide

theorem witness_CommandsChangeNothingElse :
    (∃ t, exec .nop State.reset = .next t) ∧ (∃ t, exec (.wTxPayload []) State.reset = .next t) :=
  ⟨⟨_, rfl⟩, ⟨_, rfl⟩⟩

theorem witness_wellFormed :
    (Instr.wAckPayload 5 bytes32).wellFormed = true ∧ (Instr.rRxPayload 1).wellFormed = true := by
  decide

theorem witness_OutputDependsOnTheCommandAlone :
    State.reset.payloadOrder = (presenting [.command .nop]).payloadOrder ∧
    State.reset ≠ presenting [.command .nop] := by decide

theorem witness_EncodeInvertsDecode :
    decodeFrame .reverse [0xAD, 2, 1] = .ok (.wAckPayload 5 [1, 2]) := by decide

theorem witness_EncodeIsInjective :
    Instr.flushTx.wellFormed = true ∧ encode .reverse .flushTx = encode .reverse .flushTx := by decide

theorem witness_OpcodesAreClassified :
    producedKind 0xAD = some .wAckPayload ∧ producedKind 0xAE = none ∧
    decodeFrame .preserve [0xAD, 0x01] = .ok (.wAckPayload 5 [0x01]) ∧
    producedKind 0x17 = some .rRegister ∧ producedKind 0x18 = none ∧
    producedKind 0x3D = some .wRegister ∧ producedKind 0x3E = none := by decide

theorem witness_RegisterOpcodesKeepTemplateAndAddress :
    (0x00 : Byte) &&& 0x1F = 0 ∧ (0x20 : Byte) &&& 0x1F = 0 := by decide

theorem witness_StepRunsThePresentedCommand :
    (presenting [.command .nop]).pending = .command .nop :: [] := by decide

theorem witness_StepRunsTheDecodedFrame :
    (presenting [.frame [0xFF]]).pending = .frame [0xFF] :: [] ∧
    decodeFrame .preserve [0xFF] = .ok .nop ∧
    decodeFrame State.reset.payloadOrder (tableFrame 8 0x50) = .ok .activate := by decide

theorem witness_NeverProducedOpcodesAreRefused :
    (∃ t, exec .nop State.reset = .next t ∧ t.frames = State.reset.frames ++ [[0xFF]]) ∧
    producedKind 0x40 = none ∧
    (presenting [.frame [0x40]]).pending = .frame (0x40 :: []) :: [] :=
  ⟨⟨_, rfl, rfl⟩, by decide, by decide⟩

theorem witness_ProgramWithAFailingLineIsRefused :
    (∀ k ∈ refusedProgram, k.slotsOnce = true) ∧
    (∀ k ∈ refusedProgram.take 1, ∃ c, buildLine k = .ok c) ∧
    buildLine (.command (.wAckPayload 6 [0x01])) = .error (.invalidPipe 6) ∧
    refusedProgram = refusedProgram.take 1 ++ .command (.wAckPayload 6 [0x01]) ::
      refusedProgram.drop 2 := by
  refine ⟨by decide, ?_, by decide, by decide⟩
  intro k hk
  simp only [refusedProgram, List.take, List.mem_singleton] at hk
  subst hk
  exact ⟨.wRegister .rfCh (.rfCh 2), by decide⟩

theorem witness_ProgramThatBuildsStandsItsCommandsNext :
    (∀ k ∈ refusedProgram.take 1, k.slotsOnce = true) ∧
    (refusedProgram.take 1).map buildLine = [Instr.wRegister .rfCh (.rfCh 2)].map .ok ∧
    (presenting [.program (refusedProgram.take 1)]).pending = .program (refusedProgram.take 1) :: [] ∧
    ¬([Assign.raw RawSlot.rfCh 1, .raw .rfCh 2].map Assign.slot).Nodup := by decide

/-- The clauses of the two statements on programs meet no program twice: one slot, set twice. -/
theorem test_program_assigning_twice :
    step (presenting [.program [.writeRegister .rfCh [.raw .rfCh 1, .raw .rfCh 200]]]) =
      .refused .slotAssignedTwice := rfl

theorem witness_WRegisterLineStartsFromDefaults :
    buildLine (.writeRegister .config [.bool .pwrUp true]) =
      .ok (.wRegister .config (.config
        { maskRxDr := false, maskTxDs := false, maskMaxRt := false, enCrc := true
          crco := .oneByte, pwrUp := true, primRx := false })) ∧
    Slot.crco ∉ [Assign.bool BoolSlot.pwrUp true].map Assign.slot ∧
    ([Assign.bool BoolSlot.pwrUp true].map Assign.slot).Nodup := by decide

theorem witness_TextIsTakenAsItsProgram :
    (presenting [.text ['N', 'O', 'P']]).pending = .text ['N', 'O', 'P'] :: [] ∧
    parseProgram ['N', 'O', 'P'] = some [.command .nop] ∧ parseProgram ['N', 'O'] = none := by decide

theorem witness_AssemblerReadsEveryProgram :
    ∀ R r, Line.command .nop ≠ .command (.wRegister R r) := by
  intro R r h
  cases h

theorem witness_CommentsCarryNoMeaning : '\n' ∉ " P1 line 1; so".toList := by decide

theorem witness_SeparatorsInIntegersCarryNoMeaning : '1' ≠ '_' := by decide

theorem witness_PresentedCommandsAreEncodedInOrder :
    (∀ c ∈ [Instr.flushTx, .rRxPayload 32], c.wellFormed = true) ∧
    (presenting ([Instr.flushTx, .rRxPayload 32].map .command)).pending =
      [Instr.flushTx, .rRxPayload 32].map .command ++ [] := by decide

theorem witness_ByteOrderIsNotSwitchable :
    ∃ t, step (presenting [.command (.wTxPayload [1, 2])]) = .next t := ⟨_, rfl⟩

theorem witness_StepOnlyAddsToTheOutput :
    (∃ t, step (presenting [.command .nop]) = .next t) ∧
    ∃ t, step (presenting [.program refusedProgram]) = .next t := ⟨⟨_, rfl⟩, ⟨_, rfl⟩⟩

theorem witness_IdleStepChangesNothing : State.reset.pending = [] := rfl

theorem witness_StepKeepsFramesSpellingCommands :
    ({ State.reset with frames := [[0xFF]], pending := [.command .nop] } : State).framesSpell = true ∧
    ∃ t, step { State.reset with frames := [[0xFF]], pending := [.command .nop] } = .next t :=
  ⟨by decide, _, rfl⟩

theorem witness_StepKeepsErrorsWithCauses :
    ({ State.reset with errors := [.invalidPipe 6], pending := [.command (.rRxPayload 33)] } :
      State).errorsHaveCause = true ∧
    ∃ t, step { State.reset with errors := [.invalidPipe 6], pending := [.command (.rRxPayload 33)] } =
      .next t := ⟨by decide, _, rfl⟩

end Sys2Proof.Tests
end

namespace Sys2Proof.Machine

/-- Without operand bits the opcode of a frame is the command's template (R63). -/
theorem encode_of_operandBits_eq_zero (o : PayloadOrder) {i : Instr} (h : i.operandBits = 0) :
    encode o i = i.kind.template :: i.dataBytes o := by
  simp [encode, h]

/-- The meaning of every command, well-formed or not, through the opcode map: it builds with the
command's own check, and its frame reads nothing of the state but the payload order (R9, R63, R99). -/
theorem exec_eq_construct (i : Instr) (s : State) :
    exec i s = construct (commandError i) (encode s.payloadOrder i) s := by
  cases i with
  | rRegister | wRegister | wAckPayload => rfl
  | rRxPayload | rRxPlWid | wTxPayload | wTxPayloadNoack | flushTx | flushRx | reuseTxPl | nop
  | activate => rw [encode_of_operandBits_eq_zero _ rfl]; rfl

/-- What a construction appends to the frames and to the errors is fixed before the state is seen. -/
theorem construct_appends (error : Option ConstructionError) (f : Frame) :
    ∃ fs es, ∀ s : State, construct error f s =
      .next { s with frames := s.frames ++ fs, errors := s.errors ++ es } := by
  cases error with
  | some e => exact ⟨[], [e], fun s => construct_next.2 (.inl ⟨e, rfl, by simp [State.addError]⟩)⟩
  | none => exact ⟨[f], [], fun s => construct_next.2 (.inr ⟨rfl, by simp [State.addFrame]⟩)⟩

/-- Settles O32: both runs are one construction, with the same check and the same frame. -/
theorem outputDependsOnTheCommandAlone : Obligations.OutputDependsOnTheCommandAlone := by
  intro i s₁ s₂ horder
  obtain ⟨fs, es, happends⟩ := construct_appends (commandError i) (encode s₁.payloadOrder i)
  have hrun₁ := exec_eq_construct i s₁
  have hrun₂ := exec_eq_construct i s₂
  rw [← horder] at hrun₂
  exact ⟨fs, es, hrun₁.trans (happends s₁), hrun₂.trans (happends s₂)⟩

end Sys2Proof.Machine

namespace Sys2Proof

/-! ### Register addresses and the opcodes made of them -/

theorem RegType.mem_all (R : RegType) : R ∈ RegType.all := by
  cases R <;> decide

/-- An address without a register type is the address of none. -/
theorem RegType.address_ne_of_ofAddress_eq_none {a : Byte} (h : RegType.ofAddress a = none)
    (R : RegType) : R.address ≠ a := by
  simpa using List.find?_eq_none.1 h R R.mem_all

theorem addressBits_or (x y : Byte) : addressBits (x ||| y) = addressBits x ||| addressBits y :=
  BitVec.and_or_distrib_right

/-- A register address is a five-bit value (10_state.md section 4). -/
@[simp] theorem addressBits_address (R : RegType) : addressBits R.address = R.address := by
  cases R <;> decide

/-- A REG-form opcode holds its operand in the five low bits (R64). -/
theorem RegType.address_eq_of_or_eq {template a : Byte} {R : RegType}
    (htemplate : addressBits template = 0) (ha : addressBits a = a)
    (h : template ||| R.address = template ||| a) : R.address = a := by
  simpa [addressBits_or, htemplate, ha] using congrArg addressBits h

/-- Settles O5: no type is found at the address, and an opcode gives back the address it was made of. -/
theorem unassignedAddressesCannotBeNamed : Obligations.UnassignedAddressesCannotBeNamed := by
  intro a ha
  have hnone : RegType.ofAddress a = none := by revert a; decide
  have hbits : addressBits a = a := by revert a; decide
  have hne := RegType.address_ne_of_ofAddress_eq_none hnone
  refine ⟨hnone, hne, fun o R hread => ?_, fun o R r hwrite => ?_⟩
  · have hopcode : 0x00 ||| R.address = 0x00 ||| a :=
      (Option.some.inj hread).trans BitVec.zero_or.symm
    exact hne R (RegType.address_eq_of_or_eq (by decide) hbits hopcode)
  · have hopcode : 0x20 ||| R.address = 0x20 ||| a := Option.some.inj hwrite
    exact hne R (RegType.address_eq_of_or_eq (by decide) hbits hopcode)

/-! ### What a register value packs to -/

/-- `pack` gives R.WIDTH bytes (R91). -/
@[simp] theorem RegValue.pack_length {R : RegType} (r : RegValue R) : r.pack.length = R.width :=
  leBytes_length _ _

/-- Reserved slots add nothing to the packed value (R21). -/
theorem RegValue.foldl_reserved {R : RegType} (r : RegValue R) (v : BitVec 40)
    {ds : List (SlotDesc R)} (h : ∀ d ∈ ds, d.slot = none) :
    ds.foldl (fun v d => v ||| (BitVec.ofNat 40 (r.descCode d) <<< d.offset)) v = v := by
  induction ds with
  | nil => rfl
  | cons d ds ih =>
    obtain ⟨hd, hds⟩ := List.forall_mem_cons.1 h
    have hcode : r.descCode d = 0 := by simp [RegValue.descCode, hd]
    simpa [hcode] using ih hds

/-- A register whose one slot is a raw slot at bit 0 packs the integer in it. -/
theorem RegValue.pack_of_layout_raw {R : RegType} {s : RawSlot R} {n : Nat}
    {reserved : List (SlotDesc R)} (hlayout : layout R = ⟨some (.raw s), 0, n⟩ :: reserved)
    (hreserved : ∀ d ∈ reserved, d.slot = none) (r : RegValue R) :
    r.pack = leBytes R.width (BitVec.ofNat 40 (r.getRaw s)) := by
  rw [RegValue.pack, RegValue.packed, hlayout, List.foldl_cons, r.foldl_reserved _ hreserved]
  simp [RegValue.descCode, RegValue.slotCode]

/-- The five bytes of a full-width address, least significant first (R49). -/
theorem leBytes_five (v : BitVec 40) :
    leBytes 5 v = [v.extractLsb' 0 8, v.extractLsb' 8 8, v.extractLsb' 16 8, v.extractLsb' 24 8,
      v.extractLsb' 32 8] := by
  simp only [leBytes, BitVec.setWidth_ushiftRight_eq_extractLsb]
  rfl

theorem leBytes_one_ofNat (n : Nat) : leBytes 1 (BitVec.ofNat 40 n) = [BitVec.ofNat 8 n] := by
  simp [leBytes, BitVec.setWidth_ofNat_of_le]

/-- Settles O12: the rows by evaluation, the bytes from the one slot that fills the register. -/
theorem fullWidthAddressesPackLowByteFirst : Obligations.FullWidthAddressesPackLowByteFirst := by
  refine ⟨by decide, fun v b hb => ?_⟩
  rw [← leBytes_five]
  simp only [List.mem_cons, List.not_mem_nil, or_false] at hb
  obtain rfl | rfl | rfl := hb <;>
    rw [RegValue.pack_of_layout_raw rfl (by simp)] <;>
    simp [RegValue.getRaw, RegType.width]

/-- Settles O54: the rows and the CONFIG example by evaluation, the width from `pack_length`. -/
theorem layoutsFollowTheFieldTables : Obligations.LayoutsFollowTheFieldTables := by
  refine ⟨by decide, by decide, fun R hR r => ?_⟩
  have hwidth : R.width = 5 := by clear r; revert R; decide
  rw [r.pack_length, hwidth]

/-- A payload width register has one slot, of 6 bits, in one byte (R35). -/
theorem layout_of_payloadWidth {R : RegType}
    (hR : R ∈ [RegType.rxPwP0, .rxPwP1, .rxPwP2, .rxPwP3, .rxPwP4, .rxPwP5]) (s : RawSlot R) :
    R.width = 1 ∧ s.width = 6 ∧ layout R = [⟨some (.raw s), 0, 6⟩, ⟨none, 6, 2⟩] := by
  simp only [List.mem_cons, List.not_mem_nil, or_false] at hR
  obtain rfl | rfl | rfl | rfl | rfl | rfl := hR <;> cases s <;> exact ⟨rfl, rfl, rfl⟩

/-- Settles O55: the rows by evaluation, the payload widths from the layout they share. -/
theorem pipeLayoutsFollowTheFieldTables : Obligations.PipeLayoutsFollowTheFieldTables := by
  refine ⟨by decide, fun R hR s v hv => ?_, fun s => rfl⟩
  obtain ⟨hbytes, hbits, hlayout⟩ := layout_of_payloadWidth hR s
  have hfits : v < 2 ^ s.width := by rw [hbits]; exact hv
  refine ⟨_, RegValue.withRaw_ok.2 ⟨hfits, rfl⟩, ?_⟩
  rw [RegValue.pack_of_layout_raw hlayout (by simp), RegValue.getRaw_putRaw s v _ hfits, hbytes,
    leBytes_one_ofNat]

/-! ### Writing every slot of a value -/

/-- A raw slot can be set as it reads in another value of the type: that integer always fits (R89). -/
theorem RegValue.withSlots_cons_getRaw {R : RegType} (s : RawSlot R) (r t : RegValue R)
    (as : List (Assign R)) :
    t.withSlots (.raw s (r.getRaw s) :: as) = (t.putRaw s (r.getRaw s)).withSlots as := by
  have hset : t.withRaw s (r.getRaw s) = .ok (t.putRaw s (r.getRaw s)) :=
    RegValue.withRaw_ok.2 ⟨r.getRaw_lt s, rfl⟩
  simp only [RegValue.withSlots, RegValue.withSlot, hset]

/-- Assigning every slot as it reads in `r` gives `r`, whatever the slots held before (R74, R89).
The bool and enumeration setters compute; each raw setter is passed by `withSlots_cons_getRaw`. -/
theorem RegValue.withSlots_assigns {R : RegType} (r t : RegValue R) :
    t.withSlots r.assigns = .ok r := by
  cases r with
  | config | enAa | enRxaddr | setupAw | rfSetup | rpd | fifoStatus | dynpd | feature =>
    cases t
    rfl
  | setupRetr r =>
    cases t
    refine (withSlots_cons_getRaw _ _ _ _).trans ?_
    show Except.ok (RegValue.setupRetr { r with arc := BitVec.ofNat 4 r.arc.toNat }) = _
    simp
  | status r =>
    cases t
    refine (withSlots_cons_getRaw .rxPNo (.status r) (.status _) _).trans ?_
    show Except.ok (RegValue.status { r with rxPNo := BitVec.ofNat 3 r.rxPNo.toNat }) = _
    simp
  | observeTx =>
    cases t
    refine (withSlots_cons_getRaw _ _ _ _).trans ((withSlots_cons_getRaw _ _ _ _).trans ?_)
    simp [RegValue.withSlots, RegValue.putRaw, RegValue.getRaw]
  | rfCh | rxAddrP0 | rxAddrP1 | rxAddrP2 | rxAddrP3 | rxAddrP4 | rxAddrP5 | txAddr
  | rxPwP0 | rxPwP1 | rxPwP2 | rxPwP3 | rxPwP4 | rxPwP5 =>
    cases t
    refine (withSlots_cons_getRaw _ _ _ _).trans ?_
    simp [RegValue.withSlots, RegValue.putRaw, RegValue.getRaw]

end Sys2Proof

namespace Sys2Proof.Machine

/-- Settles O10: the line assigns every slot of the layout, and R101 has no check. -/
theorem everyRegisterValueCanBeWritten : Obligations.EveryRegisterValueCanBeWritten := by
  intro R r
  refine ⟨⟨r.assigns, ?_, ?_⟩, fun s => ⟨_, rfl⟩⟩
  · simpa [Line.slotsOnce, assigns_slots] using layout_slots_nodup R
  · simp [buildLine, r.withSlots_assigns]

end Sys2Proof.Machine

namespace Sys2Proof.Machine

/-! ### Running presented commands -/

/-- A step takes the oldest presented command and runs it without it (R16). -/
theorem step_of_pending_command {s : State} {i : Instr} {rest : List Presented}
    (h : s.pending = .command i :: rest) : step s = exec i (s.setPending rest) := by
  simp only [step, fetch, h]

/-- A well-formed command hands out the frame of the opcode map and nothing else (R9, R98). -/
theorem exec_of_wellFormed {i : Instr} (h : i.wellFormed = true) (s : State) :
    exec i s = .next (s.addFrame (encode s.payloadOrder i)) := by
  rw [exec_eq_construct, commandError_eq_none.2 h]
  rfl

/-- A run goes on from the state its first step answers. -/
theorem run_succ_of_step {s t : State} (h : step s = .next t) (n : Nat) :
    Host.Core.run core (n + 1) s = Host.Core.run core n t := by
  have hcore : core.step s = .next t := h
  simp only [Host.Core.run, hcore]

/-- Settles O46, by induction on the commands: the first step hands out the first frame and leaves the
others pending under the same payload order. -/
theorem presentedCommandsAreEncodedInOrder : Obligations.PresentedCommandsAreEncodedInOrder := by
  intro s cs rest hwf hpending
  induction cs generalizing s with
  | nil =>
    obtain rfl : s.pending = rest := hpending
    simp [Host.Core.run]
  | cons c cs ih =>
    obtain ⟨hc, hcs⟩ := List.forall_mem_cons.1 hwf
    have hstep := (step_of_pending_command hpending).trans (exec_of_wellFormed hc _)
    refine (run_succ_of_step hstep cs.length).trans ((ih _ hcs rfl).trans ?_)
    simp [State.addFrame, State.setPending]

/-! ### The payload order is a parameter (R51) -/

theorem exec_payloadOrder {i : Instr} {s t : State} (h : exec i s = .next t) :
    t.payloadOrder = s.payloadOrder := by
  obtain ⟨e, -, rfl⟩ | ⟨-, f, rfl⟩ := exec_next h
  · exact s.addError_payloadOrder e
  · exact s.addFrame_payloadOrder f

theorem submit_payloadOrder {lines : List Line} {s t : State} (h : submit lines s = .next t) :
    t.payloadOrder = s.payloadOrder := by
  obtain ⟨-, ⟨e, -, rfl⟩ | ⟨cs, -, rfl⟩⟩ := submit_next h
  · exact s.addError_payloadOrder e
  · exact s.present_payloadOrder _

theorem step_payloadOrder {s t : State} (h : step s = .next t) :
    t.payloadOrder = s.payloadOrder := by
  obtain ⟨-, rfl⟩ | ⟨i, rest, -, hexec⟩ | ⟨lines, rest, -, hsubmit⟩ := step_next h
  · rfl
  · exact (exec_payloadOrder hexec).trans (s.setPending_payloadOrder rest)
  · exact (submit_payloadOrder hsubmit).trans (s.setPending_payloadOrder rest)

/-- Settles O47: the order is kept by `step_payloadOrder`, and the frame of W_REGISTER is its opcode and
the packed value, which read nothing of the state (R49, R101). -/
theorem byteOrderIsNotSwitchable : Obligations.ByteOrderIsNotSwitchable := by
  refine ⟨fun _ _ => step_payloadOrder, fun R r s o => ⟨regOpcode 0x20 R :: r.pack, ?_, ?_⟩⟩
  · exact emit_next.2 rfl
  · exact emit_next.2 rfl

end Sys2Proof.Machine

namespace Sys2Proof

open Machine

/-! ### Frame lengths (R68) -/

/-- No register is wider than the full-width addresses (R33, R94). -/
theorem RegType.width_le (R : RegType) : R.width ≤ 5 := by
  cases R <;> decide

/-- The opcode map and the operand forms give every command the frame length of R68. -/
@[simp] theorem encode_length (o : PayloadOrder) (i : Instr) :
    (encode o i).length = i.frameLength := by
  cases i <;> simp [encode, Instr.dataBytes, Instr.frameLength, Nat.add_comm]

/-- A frame is its opcode and at most 32 data bytes (R68). -/
theorem Instr.frameLength_bounds {i : Instr} (h : i.wellFormed = true) :
    1 ≤ i.frameLength ∧ i.frameLength ≤ 33 := by
  cases i with
  | rRegister R | wRegister R =>
    have hwidth := R.width_le
    simp only [Instr.frameLength]
    omega
  | rRxPayload | wTxPayload | wAckPayload | wTxPayloadNoack =>
    rw [← commandError_eq_none] at h
    simp only [commandError, readLengthError_eq_none, payloadError_eq_none, ackError_eq_none] at h
    simp only [Instr.frameLength]
    omega
  | rRxPlWid | flushTx | flushRx | reuseTxPl | nop | activate => decide

/-! ### The classification of the opcodes (R70, R71) -/

/-- The operand bits of an opcode of this kind name a register type or a pipe (R43, R71); an opcode of
the FIXED form has none to check. -/
def CommandKind.operandAssigned (op : Byte) : CommandKind → Bool
  | .rRegister | .wRegister => (RegType.ofAddress (addressBits op)).isSome
  | .wAckPayload => decide (pipeBits op ≤ Config.maxPipe)
  | .rRxPayload | .rRxPlWid | .wTxPayload | .wTxPayloadNoack | .flushTx | .flushRx | .reuseTxPl
  | .nop | .activate => true

/-- The list of R70 is the opcode map of R69 without the opcodes whose operand bits name nothing,
opcode by opcode. -/
theorem producedKind_eq_filter (op : Byte) :
    producedKind op = (CommandKind.ofOpcode op).filter (CommandKind.operandAssigned op) := by
  revert op
  decide

/-- Operand bits that name nothing spell no command, whatever data bytes follow (R71, R72). -/
theorem decodeData_error_of_not_operandAssigned {op : Byte} {k : CommandKind}
    (h : k.operandAssigned op = false) (o : PayloadOrder) (data : List Byte) :
    ∃ why, decodeData o op data k = .error why := by
  cases k with
  | rRegister | wRegister =>
    have haddress : RegType.ofAddress (addressBits op) = none := by
      simpa [CommandKind.operandAssigned] using h
    exact ⟨.unassignedAddress (addressBits op), by simp [decodeData, haddress]⟩
  | wAckPayload =>
    have hpipe : ¬pipeBits op ≤ Config.maxPipe := of_decide_eq_false h
    exact ⟨.unassignedPipe (pipeBits op), if_neg hpipe⟩
  | rRxPayload | rRxPlWid | wTxPayload | wTxPayloadNoack | flushTx | flushRx | reuseTxPl | nop
  | activate => cases h

/-- A never produced opcode spells no command, whatever follows it (R71). -/
theorem decodeFrame_error_of_producedKind_eq_none {op : Byte} (h : producedKind op = none)
    (o : PayloadOrder) (data : List Byte) : ∃ why, decodeFrame o (op :: data) = .error why := by
  rw [producedKind_eq_filter] at h
  cases hkind : CommandKind.ofOpcode op with
  | none => exact ⟨.undefinedOpcode op, by simp [decodeFrame, hkind]⟩
  | some k =>
    have hoperand : k.operandAssigned op = false := by simpa [hkind] using h
    simpa [decodeFrame, hkind] using decodeData_error_of_not_operandAssigned hoperand o data

/-- The REG-form opcodes of every register type are produced (R70). -/
theorem producedKind_regForm (R : RegType) :
    producedKind (CommandKind.template .rRegister ||| R.address) = some .rRegister ∧
    producedKind (CommandKind.template .wRegister ||| R.address) = some .wRegister := by
  cases R <;> decide

/-- The PIPE-form opcodes of pipes 0 to 5 are produced (R70). -/
theorem producedKind_pipeForm {pipe : Nat} (h : pipe ≤ 5) :
    producedKind (CommandKind.template .wAckPayload ||| BitVec.ofNat 8 pipe) =
      some .wAckPayload := by
  interval_cases pipe <;> decide

/-- The templates are themselves produced opcodes; those of the FIXED form are whole (R70). -/
theorem producedKind_template (k : CommandKind) : producedKind (k.template ||| 0) = some k := by
  cases k <;> decide

/-- The opcode of a well-formed command is produced, and classified as of its kind (R70). -/
theorem producedKind_opcode {i : Instr} (h : i.wellFormed = true) :
    producedKind (i.kind.template ||| i.operandBits) = some i.kind := by
  cases i with
  | rRegister R => exact (producedKind_regForm R).1
  | wRegister R => exact (producedKind_regForm R).2
  | wAckPayload pipe p =>
    obtain ⟨hpipe, -⟩ := ackError_eq_none.1 (commandError_eq_none.2 h)
    exact producedKind_pipeForm hpipe
  | rRxPayload | rRxPlWid | wTxPayload | wTxPayloadNoack | flushTx | flushRx | reuseTxPl | nop
  | activate => exact producedKind_template _

end Sys2Proof

namespace Sys2Proof.Machine

/-- Settles O31: the frame is that of the opcode map, whose length is `encode_length`. -/
theorem frameLengthsFollowTheCommand : Obligations.FrameLengthsFollowTheCommand := by
  intro i s hwf
  refine ⟨encode s.payloadOrder i, exec_of_wellFormed hwf s, encode_length _ i, ?_⟩
  rw [encode_length]
  exact Instr.frameLength_bounds hwf

/-- A command that appends a frame is well-formed, and the frame is that of the opcode map. -/
theorem eq_encode_of_exec_frames {i : Instr} {s t : State} {f : Frame} (h : exec i s = .next t)
    (hframes : t.frames = s.frames ++ [f]) :
    i.wellFormed = true ∧ f = encode s.payloadOrder i := by
  rw [exec_eq_construct, construct_next] at h
  obtain ⟨e, -, rfl⟩ | ⟨hnone, rfl⟩ := h
  · simp at hframes
  · exact ⟨commandError_eq_none.1 hnone, by simpa using hframes.symm⟩

/-- A presented frame that spells no command is refused (R71). -/
theorem step_of_pending_frame_error {s : State} {f : Frame} {rest : List Presented}
    {why : NoCommand} (h : s.pending = .frame f :: rest)
    (hdecode : decodeFrame s.payloadOrder f = .error why) :
    step s = .refused (.spellsNoCommand why) := by
  simp only [step, fetch, h, hdecode]

/-- Settles O41: the frames handed out are those of the opcode map, whose opcodes are produced; the
decoder answers every never produced opcode with an error. -/
theorem neverProducedOpcodesAreRefused : Obligations.NeverProducedOpcodesAreRefused := by
  refine ⟨fun i s t op data hexec hframes => ?_, fun s op data rest hnone hpending => ?_⟩
  · obtain ⟨hwf, hframe⟩ := eq_encode_of_exec_frames hexec hframes
    obtain ⟨rfl, -⟩ := List.cons.inj hframe
    rw [producedKind_opcode hwf]
    exact Option.some_ne_none _
  · obtain ⟨why, hdecode⟩ :=
      decodeFrame_error_of_producedKind_eq_none hnone s.payloadOrder data
    exact ⟨why, step_of_pending_frame_error hpending hdecode⟩

end Sys2Proof.Machine

namespace Sys2Proof

/-! ### The codes of the Field types (R77 to R83) -/

/-- When a table lists every enumerant, the valid codes are those it lists (R77). -/
theorem exists_code_iff_mem_map {F : Type} {n : Nat} {code : F → BitVec n} {enumerants : List F}
    (hall : ∀ e, e ∈ enumerants) (c : BitVec n) :
    (∃ e, code e = c) ↔ c ∈ enumerants.map code := by
  simp [hall]

/-- Every 1-bit code is valid (R79). -/
theorem CrcEncodingScheme.code_surjective : Function.Surjective CrcEncodingScheme.code := by
  have hall : ∀ e, e ∈ [CrcEncodingScheme.oneByte, .twoBytes] := by rintro ⟨⟩ <;> decide
  have hcodes : ∀ c, c ∈ [CrcEncodingScheme.oneByte, .twoBytes].map code := by decide
  exact fun c => (exists_code_iff_mem_map hall c).2 (hcodes c)

/-- Every 2-bit code but 0b00 is valid (R80). -/
theorem AddressWidth.exists_code_iff (c : BitVec 2) :
    (∃ e, AddressWidth.code e = c) ↔ c ≠ 0b00 := by
  have hall : ∀ e, e ∈ [AddressWidth.bytes3, .bytes4, .bytes5] := by rintro ⟨⟩ <;> decide
  have hcodes : ∀ c, c ∈ [AddressWidth.bytes3, .bytes4, .bytes5].map code ↔ c ≠ 0b00 := by decide
  exact (exists_code_iff_mem_map hall c).trans (hcodes c)

/-- Every 4-bit code is valid (R81). -/
theorem AutoRetransmitDelay.code_surjective : Function.Surjective AutoRetransmitDelay.code := by
  have hall : ∀ e, e ∈ AutoRetransmitDelay.all := by rintro ⟨⟩ <;> decide
  have hcodes : ∀ c, c ∈ AutoRetransmitDelay.all.map code := by decide
  exact fun c => (exists_code_iff_mem_map hall c).2 (hcodes c)

/-- The three valid 3-bit codes (R82). -/
theorem DataRate.exists_code_iff (c : BitVec 3) :
    (∃ e, DataRate.code e = c) ↔ c = 0b000 ∨ c = 0b001 ∨ c = 0b100 := by
  have hall : ∀ e, e ∈ [DataRate.mbps1, .mbps2, .kbps250] := by rintro ⟨⟩ <;> decide
  simpa [DataRate.code] using exists_code_iff_mem_map (code := DataRate.code) hall c

/-- Every 2-bit code is valid (R83). -/
theorem RfPower.code_surjective : Function.Surjective RfPower.code := by
  have hall : ∀ e, e ∈ [RfPower.neg18Dbm, .neg12Dbm, .neg6Dbm, .dbm0] := by rintro ⟨⟩ <;> decide
  have hcodes : ∀ c, c ∈ [RfPower.neg18Dbm, .neg12Dbm, .neg6Dbm, .dbm0].map code := by decide
  exact fun c => (exists_code_iff_mem_map hall c).2 (hcodes c)

/-- Settles O1: the tables by evaluation, the valid codes from the lists of all enumerants. -/
theorem fieldCodesFollowTheTables : Obligations.FieldCodesFollowTheTables :=
  ⟨⟨rfl, CrcEncodingScheme.code_surjective⟩,
    ⟨rfl, AddressWidth.exists_code_iff⟩,
    ⟨rfl, AutoRetransmitDelay.code_surjective⟩,
    ⟨rfl, DataRate.exists_code_iff⟩,
    ⟨rfl, RfPower.code_surjective⟩⟩

/-! ### Decoding the codes of the Field types (R86, R87) -/

@[simp] theorem CrcEncodingScheme.decode_code (e : CrcEncodingScheme) : decode e.code = .ok e := by
  cases e <;> rfl

@[simp] theorem AddressWidth.decode_code (e : AddressWidth) : decode e.code = .ok e := by
  cases e <;> rfl

@[simp] theorem AutoRetransmitDelay.decode_code (e : AutoRetransmitDelay) :
    decode e.code = .ok e := by
  cases e <;> rfl

@[simp] theorem DataRate.decode_code (e : DataRate) : decode e.code = .ok e := by
  cases e <;> rfl

@[simp] theorem RfPower.decode_code (e : RfPower) : decode e.code = .ok e := by
  cases e <;> rfl

/-- A code of no AddressWidth fails every test of the decoder (R80, R86). -/
theorem AddressWidth.decode_eq_error {c : BitVec 2} (h : ∀ e, AddressWidth.code e ≠ c) :
    AddressWidth.decode c = .error (.invalidCode .addressWidth c.toNat) :=
  (if_neg (h .bytes3).symm).trans <| (if_neg (h .bytes4).symm).trans <| if_neg (h .bytes5).symm

/-- A code of no DataRate fails every test of the decoder (R82, R86). -/
theorem DataRate.decode_eq_error {c : BitVec 3} (h : ∀ e, DataRate.code e ≠ c) :
    DataRate.decode c = .error (.invalidCode .dataRate c.toNat) :=
  (if_neg (h .mbps1).symm).trans <| (if_neg (h .mbps2).symm).trans <| if_neg (h .kbps250).symm

/-- A decoder that inverts the codes answers every code of an enumerant with that enumerant. -/
theorem decode_of_code_eq {F : Type} {n : Nat} {code : F → BitVec n}
    {decode : BitVec n → Except ConstructionError F} (hinverts : ∀ e, decode (code e) = .ok e)
    (e : F) (c : BitVec n) (h : code e = c) : decode c = .ok e :=
  h ▸ hinverts e

/-- A decoder that inverts the codes refuses none when every code is valid. -/
theorem exists_decode_of_surjective {F : Type} {n : Nat} {code : F → BitVec n}
    {decode : BitVec n → Except ConstructionError F} (hinverts : ∀ e, decode (code e) = .ok e)
    (hsurj : Function.Surjective code) (c : BitVec n) : ∃ e, decode c = .ok e ∧ code e = c := by
  obtain ⟨e, he⟩ := hsurj c
  exact ⟨e, decode_of_code_eq hinverts e c he, he⟩

/-- Settles O2: each decoder inverts its codes; where every code is valid it refuses none, and the
other two refuse what they do not find. -/
theorem fieldDecodeInvertsTheCodes : Obligations.FieldDecodeInvertsTheCodes :=
  ⟨⟨decode_of_code_eq CrcEncodingScheme.decode_code,
      exists_decode_of_surjective CrcEncodingScheme.decode_code CrcEncodingScheme.code_surjective⟩,
    ⟨decode_of_code_eq AddressWidth.decode_code, fun _ => AddressWidth.decode_eq_error⟩,
    ⟨decode_of_code_eq AutoRetransmitDelay.decode_code,
      exists_decode_of_surjective AutoRetransmitDelay.decode_code
        AutoRetransmitDelay.code_surjective⟩,
    ⟨decode_of_code_eq DataRate.decode_code, fun _ => DataRate.decode_eq_error⟩,
    ⟨decode_of_code_eq RfPower.decode_code,
      exists_decode_of_surjective RfPower.decode_code RfPower.code_surjective⟩⟩

end Sys2Proof

namespace Sys2Proof

/-! ### Setters: one slot replaced, every other slot kept (R89) -/

theorem RegValue.slotCode_withBool {R : RegType} (s : BoolSlot R) (v : Bool) (r : RegValue R)
    (t : Slot R) :
    (r.withBool s v).slotCode t = if t = .bool s then v.toNat else r.slotCode t := by
  cases t with
  | bool t => cases s <;> cases t <;> cases r <;> rfl
  | raw t => cases s <;> cases t <;> cases r <;> rfl
  | crco | aw | ard | rfDr | rfPwr => cases s <;> cases r <;> rfl

/-- Unchecked, a raw setter keeps the low N bits (R92). -/
theorem RegValue.slotCode_putRaw {R : RegType} (s : RawSlot R) (v : Nat) (r : RegValue R)
    (t : Slot R) :
    (r.putRaw s v).slotCode t = if t = .raw s then v % 2 ^ s.width else r.slotCode t := by
  cases t with
  | bool t => cases s <;> cases t <;> cases r <;> rfl
  | raw t => cases s <;> cases t <;> cases r <;> rfl
  | crco | aw | ard | rfDr | rfPwr => cases s <;> cases r <;> rfl

/-- A setter that succeeds replaces the slot it names and keeps every other (R89). -/
theorem RegValue.slotCode_of_withSlot {R : RegType} {a : Assign R} {r r' : RegValue R}
    (h : r.withSlot a = .ok r') (t : Slot R) :
    r'.slotCode t = if t = a.slot then a.code else r.slotCode t := by
  cases a with
  | bool s v =>
    obtain rfl := Except.ok.inj h
    exact r.slotCode_withBool s v t
  | raw s v =>
    obtain ⟨hfits, rfl⟩ := withRaw_ok.1 h
    rw [r.slotCode_putRaw, Nat.mod_eq_of_lt hfits]
    rfl
  | crco v | aw v | ard v | rfDr v | rfPwr v =>
    obtain rfl := Except.ok.inj h
    cases r
    cases t with
    | bool t => cases t <;> rfl
    | raw t => cases t <;> rfl
    | _ => rfl

/-- A setter succeeds when its value fits its slot (R89). -/
theorem RegValue.exists_withSlot_ok {R : RegType} {a : Assign R}
    (hfits : ∀ s v, a = .raw s v → v < 2 ^ s.width) (r : RegValue R) :
    ∃ r', r.withSlot a = .ok r' := by
  cases a with
  | raw s v => exact ⟨_, withRaw_ok.2 ⟨hfits s v rfl, rfl⟩⟩
  | bool | crco | aw | ard | rfDr | rfPwr => exact ⟨_, rfl⟩

/-- Codes that a decoder inverts are those of one enumerant each (R77). -/
theorem code_injective_of_decode {F : Type} {n : Nat} {code : F → BitVec n}
    {decode : BitVec n → Except ConstructionError F} (hinverts : ∀ e, decode (code e) = .ok e) :
    Function.Injective code := by
  intro e e' hcode
  exact Except.ok.inj ((hinverts e).symm.trans (hcode ▸ hinverts e'))

/-- The integer of a slot determines its value: no two values of a slot share their code (R84). -/
theorem Slot.reading_eq_of_slotCode_eq {R : RegType} {s : Slot R} {r r' : RegValue R}
    (h : r.slotCode s = r'.slotCode s) : s.reading r = s.reading r' := by
  cases s with
  | bool s => exact congrArg (Assign.bool s) (Function.LeftInverse.injective Bool.ofNat_toNat h)
  | raw s => exact congrArg (Assign.raw s) h
  | crco =>
    exact congrArg Assign.crco
      (code_injective_of_decode CrcEncodingScheme.decode_code (BitVec.eq_of_toNat_eq h))
  | aw =>
    exact congrArg Assign.aw
      (code_injective_of_decode AddressWidth.decode_code (BitVec.eq_of_toNat_eq h))
  | ard =>
    exact congrArg Assign.ard
      (code_injective_of_decode AutoRetransmitDelay.decode_code (BitVec.eq_of_toNat_eq h))
  | rfDr =>
    exact congrArg Assign.rfDr
      (code_injective_of_decode DataRate.decode_code (BitVec.eq_of_toNat_eq h))
  | rfPwr =>
    exact congrArg Assign.rfPwr
      (code_injective_of_decode RfPower.decode_code (BitVec.eq_of_toNat_eq h))

/-- A register value is the integers of its slots (R22): equal slots write the same value. -/
theorem RegValue.ext_slotCode {R : RegType} {r r' : RegValue R}
    (h : ∀ s, r.slotCode s = r'.slotCode s) : r = r' := by
  have hassigns : r.assigns = r'.assigns := by
    simp only [RegValue.assigns, Slot.reading_eq_of_slotCode_eq (h _)]
  exact Except.ok.inj ((r.withSlots_assigns r).symm.trans (hassigns ▸ r'.withSlots_assigns r))

/-- Settles O8: an overflow by `withRaw_error`; otherwise the setter replaces the integer of its slot
alone, and values that agree in every slot are equal. -/
theorem setterReplacesExactlyOneSlot : Obligations.SetterReplacesExactlyOneSlot := by
  intro R r a
  refine ⟨?_, fun hfits => ?_⟩
  · rintro s v rfl hover
    exact RegValue.withRaw_error.2 ⟨hover, rfl⟩
  · obtain ⟨r', hset⟩ := r.exists_withSlot_ok hfits
    have hcode := RegValue.slotCode_of_withSlot hset
    refine ⟨r', hset, ?_, fun t ht => ?_, fun hheld => RegValue.ext_slotCode fun t => ?_⟩
    · rw [hcode, if_pos rfl]
    · rw [hcode, if_neg ht]
    · rw [hcode]
      split
      next ht => rw [ht, hheld]
      next => rfl

/-! ### The bits of a packed register (R91) -/

/-- `le_bytes` takes the low byte first (00_scope.md R8). -/
theorem leBytes_succ (w : Nat) (v : BitVec 40) :
    leBytes (w + 1) v = v.setWidth 8 :: leBytes w (v >>> 8) := by
  simp only [leBytes, List.range_succ_eq_map, List.map_cons, List.map_map, BitVec.shiftRight_add,
    Function.comp_def, Nat.mul_succ, Nat.add_comm _ 8]
  simp

/-- Reading W bytes back gives the low 8 * W bits (R48, R92). -/
theorem getLsbD_leValue_leBytes (w : Nat) (v : BitVec 40) (i : Nat) :
    (leValue (leBytes w v)).getLsbD i = (decide (i < 8 * w) && v.getLsbD i) := by
  induction w generalizing v i with
  | zero => simp [leBytes, leValue]
  | succ w ih =>
    simp only [leBytes_succ, leValue, BitVec.getLsbD_or, BitVec.getLsbD_setWidth,
      BitVec.getLsbD_shiftLeft, ih, BitVec.getLsbD_ushiftRight]
    by_cases hi : i < 8
    · simp [hi, show i < 8 * (w + 1) by omega, show i < 40 by omega]
    · have hlow : 8 + (i - 8) = i := by omega
      have hmem : i - 8 < 8 * w ↔ i < 8 * (w + 1) := by omega
      by_cases h40 : i < 40
      · simp [hi, hlow, hmem, h40]
      · simp [h40, BitVec.getLsbD_of_ge v i (by omega)]

theorem testBit_bitsAt (v : BitVec 40) (offset width j : Nat) :
    (bitsAt v offset width).testBit j = (decide (j < width) && v.getLsbD (offset + j)) := by
  simp [bitsAt, Nat.testBit_mod_two_pow, Nat.testBit_shiftRight, BitVec.getLsbD]

/-- A code moved up to its offset: what it ORs into bit `i` of the packed value. -/
theorem getLsbD_ofNat_shiftLeft (code offset : Nat) {i : Nat} (hi : i < 40) :
    (BitVec.ofNat 40 code <<< offset).getLsbD i = true ↔
      offset ≤ i ∧ code.testBit (i - offset) = true := by
  have hdown : i - offset < 40 := by omega
  rw [BitVec.getLsbD_shiftLeft, BitVec.getLsbD_ofNat]
  simp [hi, hdown]

/-- The bits of the packed value are those of the slots' codes, each moved up to its offset. -/
theorem RegValue.getLsbD_foldl_iff {R : RegType} (r : RegValue R) (ds : List (SlotDesc R))
    (v : BitVec 40) {i : Nat} (hi : i < 40) :
    (ds.foldl (fun v d => v ||| (BitVec.ofNat 40 (r.descCode d) <<< d.offset)) v).getLsbD i = true ↔
      v.getLsbD i = true ∨ ∃ d ∈ ds, d.offset ≤ i ∧ (r.descCode d).testBit (i - d.offset) = true := by
  induction ds generalizing v with
  | nil => simp
  | cons d ds ih =>
    rw [List.foldl_cons, ih, BitVec.getLsbD_or, Bool.or_eq_true, getLsbD_ofNat_shiftLeft _ _ hi]
    simp [or_assoc]

/-- A slot's bits lie within the bytes of its register (R20). -/
theorem layout_within {R : RegType} : ∀ d ∈ layout R, d.offset + d.width ≤ 8 * R.width := by
  cases R <;> decide

/-- Two slots of a register share no bit (10_state.md section 2). -/
theorem layout_disjoint {R : RegType} : ∀ d ∈ layout R, ∀ d' ∈ layout R, d' ≠ d →
    d.offset + d.width ≤ d'.offset ∨ d'.offset + d'.width ≤ d.offset := by
  cases R <;> decide

/-- The number of bits of a slot by its value type: 1 for a `bool`, N for a `raw N`, those of the codes
for an enumeration (R19, R79 to R83). -/
def Slot.width : {R : RegType} → Slot R → Nat
  | _, .bool _ => 1
  | _, .raw s => s.width
  | _, .crco => 1
  | _, .aw => 2
  | _, .ard => 4
  | _, .rfDr => 3
  | _, .rfPwr => 2

theorem layout_slot_width {R : RegType} : ∀ d ∈ layout R, ∀ s ∈ d.slot, s.width = d.width := by
  cases R <;> decide

/-- The integer of a slot fits the bits of its value type (R22, R84). -/
theorem RegValue.slotCode_lt {R : RegType} (r : RegValue R) (s : Slot R) :
    r.slotCode s < 2 ^ s.width := by
  cases s with
  | bool s => exact Bool.toNat_lt _
  | raw s => exact r.getRaw_lt s
  | crco | aw | ard | rfDr | rfPwr => exact BitVec.isLt _

theorem RegValue.descCode_lt {R : RegType} (r : RegValue R) {d : SlotDesc R} (hd : d ∈ layout R) :
    r.descCode d < 2 ^ d.width := by
  unfold RegValue.descCode
  split
  next s hs => exact layout_slot_width d hd s hs ▸ r.slotCode_lt s
  next => exact Nat.two_pow_pos _

/-- At the bits of a slot the packed value holds the code of that slot alone: every other slot lies
above them, or its code ends below them. -/
theorem RegValue.getLsbD_packed {R : RegType} (r : RegValue R) {d : SlotDesc R} (hd : d ∈ layout R)
    {j : Nat} (hj : j < d.width) :
    r.packed.getLsbD (d.offset + j) = (r.descCode d).testBit j := by
  have hwithin := layout_within d hd
  have hbytes := R.width_le
  rw [Bool.eq_iff_iff, RegValue.packed, r.getLsbD_foldl_iff _ _ (by omega)]
  constructor
  · rintro (hzero | ⟨d', hd', hoffset, hbit⟩)
    · simp at hzero
    · by_cases hsame : d' = d
      · simpa [hsame] using hbit
      · have habove : d'.width ≤ d.offset + j - d'.offset := by
          have hapart := layout_disjoint d hd d' hd' hsame
          omega
        have hsmall := (r.descCode_lt hd').trans_le (Nat.pow_le_pow_right two_pos habove)
        simp [Nat.testBit_lt_two_pow hsmall] at hbit
  · intro hbit
    exact .inr ⟨d, hd, Nat.le_add_right _ _, by simpa using hbit⟩

/-- Each slot reads back from the bytes of `pack` at its own bits (R91). -/
theorem RegValue.bitsAt_pack {R : RegType} (r : RegValue R) {d : SlotDesc R} (hd : d ∈ layout R) :
    bitsAt (leValue r.pack) d.offset d.width = r.descCode d := by
  refine Nat.eq_of_testBit_eq fun j => ?_
  rw [testBit_bitsAt, RegValue.pack, getLsbD_leValue_leBytes]
  by_cases hj : j < d.width
  · have hbyte : d.offset + j < 8 * R.width := by
      have hwithin := layout_within d hd
      omega
    simp [hj, hbyte, r.getLsbD_packed hd hj]
  · have hsmall := (r.descCode_lt hd).trans_le (Nat.pow_le_pow_right two_pos (not_lt.1 hj))
    simp [hj, Nat.testBit_lt_two_pow hsmall]

/-- Settles O11: the bytes by `pack_length`, the slots by `bitsAt_pack`. -/
theorem packPlacesEverySlot : Obligations.PackPlacesEverySlot :=
  fun _ r => ⟨r.pack_length, fun _ hd => r.bitsAt_pack hd⟩

/-! ### The register map and the reset table (R93, R94, R96) -/

/-- Settles O3: the list has every type, and its rows are the summary table by evaluation. -/
theorem registerMapAddressesAndWidths : Obligations.RegisterMapAddressesAndWidths :=
  ⟨RegType.mem_all, by decide⟩

/-- Settles O7: the reset table slot by slot, and the packed bytes type by type. -/
theorem defaultsFollowTheResetTable : Obligations.DefaultsFollowTheResetTable := by
  refine ⟨fun R s => ?_, fun R s => ?_, rfl, rfl, rfl, rfl, rfl, by decide⟩
  · cases s <;> decide
  · cases s <;> decide

end Sys2Proof

namespace Sys2Proof.Machine

/-! ### The register commands (R100, R101) -/

/-- Settles O18: the command is well-formed for every type, so its frame is the opcode map's; the template
0x00 adds no bit to the address. -/
theorem rRegisterEmitsAddressAndPadding : Obligations.RRegisterEmitsAddressAndPadding := by
  intro R s
  have hopcode : 0x00 ||| R.address = R.address := BitVec.zero_or
  have hwf : (Instr.rRegister R).wellFormed = true := rfl
  exact ⟨hopcode, exec_of_wellFormed hwf s⟩

/-- Settles O19: the command is well-formed for every value, so its frame is the opcode map's, with the
R.WIDTH bytes of `pack_length` as data. -/
theorem wRegisterEmitsPackedValue : Obligations.WRegisterEmitsPackedValue := by
  intro R r s
  have hwf : (Instr.wRegister R r).wellFormed = true := rfl
  exact ⟨r.pack_length, exec_of_wellFormed hwf s⟩

end Sys2Proof.Machine

namespace Sys2Proof.Machine

/-! ### The payload commands (R102 to R106) -/

/-- A command whose check finds an error returns it and hands out nothing (R122). -/
theorem exec_of_commandError {i : Instr} {e : ConstructionError} (h : commandError i = some e)
    (s : State) : exec i s = .next (s.addError e) := by
  rw [exec_eq_construct, h]
  rfl

/-- A command that checks only its payload and sends it after one opcode hands the payload out in
PAYLOAD_ORDER when its length is in range (R50, R104 to R106). -/
theorem exec_of_payload_length_in_range {i : Instr} {kind : CommandKind} {op : Byte} {p : List Byte}
    (hcheck : commandError i = payloadError kind p) (hframe : ∀ o, encode o i = op :: order o p)
    (hmin : 1 ≤ p.length) (hmax : p.length ≤ 32) (s : State) :
    (s.payloadOrder = .preserve → exec i s = .next (s.addFrame (op :: p))) ∧
    (s.payloadOrder = .reverse → exec i s = .next (s.addFrame (op :: p.reverse))) := by
  have hwf := commandError_eq_none.1 (hcheck.trans (payloadError_eq_none.2 ⟨hmin, hmax⟩))
  rw [exec_of_wellFormed hwf, hframe]
  constructor
  · intro horder
    rw [horder, order]
  · intro horder
    rw [horder, order]

/-- A command that checks only its payload refuses every other length (R116). -/
theorem exec_of_payload_length_out_of_range {i : Instr} {kind : CommandKind} {p : List Byte}
    (hcheck : commandError i = payloadError kind p) (hlength : p.length = 0 ∨ 32 < p.length)
    (s : State) : exec i s = .next (s.addError (.payloadLengthOutOfRange kind p.length)) :=
  exec_of_commandError (hcheck.trans (payloadError_eq_some.2 ⟨by omega, rfl⟩)) s

/-- With a pipe of the chip, W_ACK_PAYLOAD checks only its payload (R124). -/
theorem commandError_wAckPayload_of_pipe_le {pipe : Nat} (h : pipe ≤ 5) (p : List Byte) :
    commandError (.wAckPayload pipe p) = payloadError .wAckPayload p :=
  if_neg (Nat.not_lt.2 h)

/-- The template of W_ACK_PAYLOAD leaves bits 2:0 to the pipe (R65, R105). -/
theorem pipeOpcode_wAckPayload_bits {pipe : Nat} (h : pipe ≤ 5) :
    (pipeOpcode 0xA8 pipe).toNat / 8 = 0b10101 ∧ (pipeOpcode 0xA8 pipe).toNat % 8 = pipe := by
  interval_cases pipe <;> decide

/-- Settles O20: the read-length check decides, and the frame is the opcode map's. -/
theorem rRxPayloadEmitsPaddingOrRefuses : Obligations.RRxPayloadEmitsPaddingOrRefuses := by
  constructor
  · intro n s hmin hmax
    have hcheck : commandError (.rRxPayload n) = none := readLengthError_eq_none.2 ⟨hmin, hmax⟩
    rw [exec_of_wellFormed (commandError_eq_none.1 hcheck), encode_of_operandBits_eq_zero _ rfl]
    rfl
  · intro n s hlength
    have hcheck : commandError (.rRxPayload n) = some (.readLengthOutOfRange n) :=
      readLengthError_eq_some.2 ⟨by omega, rfl⟩
    exact exec_of_commandError hcheck s

/-- Settles O21: the command has no operand to check, so its frame is the opcode map's. -/
theorem rRxPlWidEmitsOnePaddingByte : Obligations.RRxPlWidEmitsOnePaddingByte := by
  intro s
  have hwf : Instr.rRxPlWid.wellFormed = true := rfl
  exact exec_of_wellFormed hwf s

/-- Settles O22: the command checks only its payload and has no operand bits. -/
theorem wTxPayloadEmitsPayloadOrRefuses : Obligations.WTxPayloadEmitsPayloadOrRefuses := by
  have hframe (p : List Byte) (o : PayloadOrder) : encode o (.wTxPayload p) = 0xA0 :: order o p :=
    encode_of_operandBits_eq_zero o rfl
  exact ⟨fun p s hmin hmax => exec_of_payload_length_in_range rfl (hframe p) hmin hmax s,
    fun p s hlength => exec_of_payload_length_out_of_range rfl hlength s⟩

/-- Settles O23: the pipe is checked first; with a good pipe the command checks only its payload, and its
opcode is the template with the pipe in the low bits. -/
theorem wAckPayloadEmitsPayloadOrRefuses : Obligations.WAckPayloadEmitsPayloadOrRefuses := by
  refine ⟨?_, ?_, ?_⟩
  · intro pipe p s hpipe hmin hmax
    have hcheck := commandError_wAckPayload_of_pipe_le hpipe p
    obtain ⟨htemplate, hlow⟩ := pipeOpcode_wAckPayload_bits hpipe
    have hframe (o : PayloadOrder) :
        encode o (.wAckPayload pipe p) = pipeOpcode 0xA8 pipe :: order o p := rfl
    exact ⟨pipeOpcode 0xA8 pipe, rfl, htemplate, hlow,
      exec_of_payload_length_in_range hcheck hframe hmin hmax s⟩
  · intro pipe p s hpipe
    have hcheck : commandError (.wAckPayload pipe p) = some (.invalidPipe pipe) :=
      ackError_eq_some.2 (.inl ⟨hpipe, rfl⟩)
    exact exec_of_commandError hcheck s
  · intro pipe p s hpipe hlength
    have hcheck := commandError_wAckPayload_of_pipe_le hpipe p
    exact exec_of_payload_length_out_of_range hcheck hlength s

/-- Settles O24: the command checks only its payload and has no operand bits. -/
theorem wTxPayloadNoackEmitsPayloadOrRefuses :
    Obligations.WTxPayloadNoackEmitsPayloadOrRefuses := by
  have hframe (p : List Byte) (o : PayloadOrder) :
      encode o (.wTxPayloadNoack p) = 0xB0 :: order o p :=
    encode_of_operandBits_eq_zero o rfl
  exact ⟨fun p s hmin hmax => exec_of_payload_length_in_range rfl (hframe p) hmin hmax s,
    fun p s hlength => exec_of_payload_length_out_of_range rfl hlength s⟩

end Sys2Proof.Machine

namespace Sys2Proof.Machine

/-! ### The control commands (R108 to R112) -/

/-- A well-formed command without operand bits hands out its template, followed by its data bytes, and
nothing else (R63, R69). -/
theorem exec_of_operandBits_eq_zero {i : Instr} (hwf : i.wellFormed = true)
    (hbits : i.operandBits = 0) (s : State) :
    exec i s = .next (s.addFrame (i.kind.template :: i.dataBytes s.payloadOrder)) := by
  rw [exec_of_wellFormed hwf, encode_of_operandBits_eq_zero _ hbits]

/-- Settles O25: the four commands have neither operand bits nor data bytes, so the template is the whole
frame. -/
theorem controlCommandsEmitOneByte : Obligations.ControlCommandsEmitOneByte := by
  intro s
  refine ⟨?flushTx, ?flushRx, ?reuseTxPl, ?nop⟩
  case flushTx => exact exec_of_operandBits_eq_zero (i := .flushTx) rfl rfl s
  case flushRx => exact exec_of_operandBits_eq_zero (i := .flushRx) rfl rfl s
  case reuseTxPl => exact exec_of_operandBits_eq_zero (i := .reuseTxPl) rfl rfl s
  case nop => exact exec_of_operandBits_eq_zero (i := .nop) rfl rfl s

/-- Settles O26: the command has no operand bits, and its only data byte is the constant. -/
theorem activateEmitsItsConstant : Obligations.ActivateEmitsItsConstant := by
  intro s
  have hdata : Instr.activate.dataBytes s.payloadOrder = [0x73] := rfl
  have hrun := exec_of_operandBits_eq_zero (i := .activate) rfl rfl s
  rw [hdata] at hrun
  exact hrun

end Sys2Proof.Machine

namespace Sys2Proof

/-! ### The errors of `unpack` (R119 to R121, R124) -/

/-- A code as it is cut from its slot is read back from the bits of its Field type. -/
theorem toNat_ofNat_bitsAt (v : BitVec 40) (offset width : Nat) :
    (BitVec.ofNat width (bitsAt v offset width)).toNat = bitsAt v offset width := by
  simp [bitsAt]

/-- A decoder that inverts the codes and refuses the rest raises its error for exactly the codes of no
enumerant (R86). -/
theorem decode_eq_error_iff {F : Type} {n : Nat} {code : F → BitVec n}
    {decode : BitVec n → Except ConstructionError F} {err : BitVec n → ConstructionError}
    (hinverts : ∀ f, decode (code f) = .ok f)
    (hrefuses : ∀ {c}, (∀ f, code f ≠ c) → decode c = .error (err c))
    {c : BitVec n} {e : ConstructionError} :
    decode c = .error e ↔ (¬∃ f, code f = c) ∧ err c = e := by
  by_cases hvalid : ∃ f, code f = c
  · obtain ⟨f, rfl⟩ := hvalid
    simp [hinverts]
  · simp [hrefuses (not_exists.1 hvalid), hvalid]

/-- 0b00 is the one code that AddressWidth refuses (R80). -/
theorem AddressWidth.decode_bitsAt_eq_error_iff (v : BitVec 40) (offset : Nat)
    {e : ConstructionError} :
    AddressWidth.decode (BitVec.ofNat 2 (bitsAt v offset 2)) = .error e ↔
      bitsAt v offset 2 = 0 ∧ .invalidCode .addressWidth 0 = e := by
  rw [decode_eq_error_iff decode_code decode_eq_error, exists_code_iff, toNat_ofNat_bitsAt, not_not,
    ← BitVec.toNat_inj, toNat_ofNat_bitsAt]
  exact and_congr_right fun hzero => by rw [hzero]; rfl

/-- DataRate refuses every code but its three (R82). -/
theorem DataRate.decode_bitsAt_eq_error_iff (v : BitVec 40) (offset : Nat) {e : ConstructionError} :
    DataRate.decode (BitVec.ofNat 3 (bitsAt v offset 3)) = .error e ↔
      bitsAt v offset 3 ∉ [0, 1, 4] ∧ .invalidCode .dataRate (bitsAt v offset 3) = e := by
  rw [decode_eq_error_iff decode_code decode_eq_error, exists_code_iff]
  simp only [← BitVec.toNat_inj, toNat_ofNat_bitsAt]
  simp

/-- A decoder of a Field type whose every code is valid refuses nothing. -/
theorem decode_ne_error_of_surjective {F : Type} {n : Nat} {code : F → BitVec n}
    {decode : BitVec n → Except ConstructionError F} (hinverts : ∀ f, decode (code f) = .ok f)
    (hsurj : Function.Surjective code) (c : BitVec n) (e : ConstructionError) :
    decode c ≠ .error e := by
  obtain ⟨f, hdecode, -⟩ := exists_decode_of_surjective hinverts hsurj c
  simp [hdecode]

@[simp] theorem except_map_eq_error_iff {ε α β : Type} {f : α → β} {x : Except ε α} {e : ε} :
    x.map f = .error e ↔ x = .error e := by
  cases x <;> simp [Except.map]

/-- One turn of `unpack`'s loop raises exactly the error of its slot, whatever value is being built
(R92, R124). -/
theorem RegValue.unpackSlot_eq_error_iff {R : RegType} {d : SlotDesc R} (hd : d ∈ layout R)
    (v : BitVec 40) (r : RegValue R) {e : ConstructionError} :
    r.unpackSlot v d = .error e ↔ slotError v d = some e := by
  have hwidth := layout_slot_width d hd
  obtain ⟨slot, offset, width⟩ := d
  cases slot with
  | none => by_cases hzero : bitsAt v offset width = 0 <;> simp [unpackSlot, slotError, hzero]
  | some s =>
    simp only [unpackSlot]
    cases s with
    | bool | raw => simp [putCode, slotError]
    | crco =>
      simp [putCode, slotError,
        decode_ne_error_of_surjective CrcEncodingScheme.decode_code CrcEncodingScheme.code_surjective]
    | ard =>
      simp [putCode, slotError, decode_ne_error_of_surjective AutoRetransmitDelay.decode_code
        AutoRetransmitDelay.code_surjective]
    | rfPwr =>
      simp [putCode, slotError,
        decode_ne_error_of_surjective RfPower.decode_code RfPower.code_surjective]
    | aw =>
      obtain rfl : 2 = width := hwidth .aw rfl
      simp [putCode, slotError, AddressWidth.decode_bitsAt_eq_error_iff]
    | rfDr =>
      obtain rfl : 3 = width := hwidth .rfDr rfl
      simp [putCode, slotError, DataRate.decode_bitsAt_eq_error_iff]

/-- `unpack`'s loop raises exactly the error of the first offending slot (R124). -/
theorem RegValue.unpackSlots_eq_error_iff {R : RegType} (v : BitVec 40) {ds : List (SlotDesc R)}
    (hds : ds ⊆ layout R) (r : RegValue R) {e : ConstructionError} :
    r.unpackSlots v ds = .error e ↔ ds.findSome? (slotError v) = some e := by
  induction ds generalizing r with
  | nil => simp [unpackSlots]
  | cons d ds ih =>
    obtain ⟨hd, hrest⟩ := List.cons_subset.1 hds
    have hfirst {e'} := r.unpackSlot_eq_error_iff hd v (e := e')
    cases hslot : r.unpackSlot v d with
    | error e' => simp [unpackSlots, hslot, hfirst.1 hslot]
    | ok r' =>
      have hnone : slotError v d = none :=
        Option.eq_none_iff_forall_ne_some.2 fun e' he' => by cases hslot.symm.trans (hfirst.2 he')
      simp [unpackSlots, hslot, hnone, ih hrest r']

/-- A byte sequence of another length is refused before any slot is read (R120, R124). -/
theorem RegValue.unpack_of_length_ne {R : RegType} {b : List Byte} (h : b.length ≠ R.width) :
    unpack R b = .error (.wrongLength R b.length) :=
  if_neg h

/-- Bytes of the right length are refused with the error of the first offending slot (R92, R124). -/
theorem RegValue.unpack_eq_error_iff {R : RegType} {b : List Byte} (h : b.length = R.width)
    {e : ConstructionError} :
    unpack R b = .error e ↔ (layout R).findSome? (slotError (leValue b)) = some e := by
  rw [unpack, if_pos h]
  exact unpackSlots_eq_error_iff _ (List.Subset.refl _) _

/-- Bytes of the right length are a value's exactly when no slot offends (R92). -/
theorem RegValue.exists_unpack_ok_iff {R : RegType} {b : List Byte} (h : b.length = R.width) :
    (∃ r, unpack R b = .ok r) ↔ (layout R).findSome? (slotError (leValue b)) = none := by
  rw [Option.eq_none_iff_forall_ne_some]
  simp only [ne_eq, ← unpack_eq_error_iff h]
  cases unpack R b <;> simp

/-- The error of a slot is ReservedBitSet or InvalidCode, never WrongLength (R124). -/
theorem slotError_ne_wrongLength {R S : RegType} (v : BitVec 40) (d : SlotDesc R) (n : Nat) :
    slotError v d ≠ some (.wrongLength S n) := by
  unfold slotError
  split
  next => split <;> simp
  next => split <;> simp
  next => split <;> simp
  all_goals simp

/-- The slots of every layout stand in increasing bit offset (10_state.md section 3). -/
theorem layout_offsets_increasing (R : RegType) :
    (layout R).Pairwise fun d e => d.offset < e.offset := by
  cases R <;> decide

/-- Only a raw setter raises, and only RawFieldOverflow (R89, R115). -/
theorem RegValue.withSlot_error {R : RegType} {r : RegValue R} {a : Assign R}
    {e : ConstructionError} (h : r.withSlot a = .error e) :
    ∃ s v, a = .raw s v ∧ e = .rawFieldOverflow R s v s.width := by
  cases a with
  | raw s v => exact ⟨s, v, rfl, (withRaw_error.1 h).2⟩
  | bool | crco | aw | ard | rfDr | rfPwr => cases h

/-- Settles O15: the length is checked first, and no slot has this error. -/
theorem unpackChecksTheLength : Obligations.UnpackChecksTheLength := by
  refine fun R b => ⟨RegValue.unpack_of_length_ne, fun hlength n hwrong => ?_⟩
  obtain ⟨d, -, hd⟩ :=
    List.exists_of_findSome?_eq_some ((RegValue.unpack_eq_error_iff hlength).1 hwrong)
  exact slotError_ne_wrongLength _ d n hd

/-- Settles O16: the reserved slot offends, so the search for an offending slot finds one. -/
theorem unpackRefusesReservedBits : Obligations.UnpackRefusesReservedBits := by
  intro R b d hlength hd hreserved hbits
  have hoffends : slotError (leValue b) d = some (.reservedBitSet R d.offset) := by
    simp [slotError, hreserved, hbits]
  have hfound : ((layout R).findSome? (slotError (leValue b))).isSome :=
    List.findSome?_isSome_iff.2 ⟨d, hd, by simp [hoffends]⟩
  obtain ⟨e, he⟩ := Option.isSome_iff_exists.1 hfound
  exact ⟨e, (RegValue.unpack_eq_error_iff hlength).2 he⟩

end Sys2Proof

namespace Sys2Proof.Machine

/-! ### The first error found, and nothing else (R116, R122, R124) -/

/-- Settles O17: setters by `withSlot_error`, W_ACK_PAYLOAD by O23, `unpack` by the search of its loop
through the layout in its order. -/
theorem firstErrorFoundIsReported : Obligations.FirstErrorFoundIsReported := by
  obtain ⟨-, hpipe, hlength⟩ := wAckPayloadEmitsPayloadOrRefuses
  refine ⟨fun _ _ _ _ => RegValue.withSlot_error, hpipe, hlength, layout_offsets_increasing,
    fun R b => ⟨RegValue.unpack_of_length_ne, fun hwidth => ⟨fun e => ?_, ?_⟩⟩⟩
  · exact (RegValue.unpack_eq_error_iff hwidth).2
  · exact (RegValue.exists_unpack_ok_iff hwidth).2

/-- Settles O27: each of the three commands checks only its payload, W_ACK_PAYLOAD once its pipe is
good. -/
theorem payloadLengthsOutOfRangeAreRefused : Obligations.PayloadLengthsOutOfRangeAreRefused := by
  rintro p s hlength i k (⟨rfl, rfl⟩ | ⟨rfl, rfl⟩ | ⟨pipe, hpipe, rfl, rfl⟩)
  · exact exec_of_payload_length_out_of_range (i := .wTxPayload p) rfl hlength s
  · exact exec_of_payload_length_out_of_range (i := .wTxPayloadNoack p) rfl hlength s
  · exact exec_of_payload_length_out_of_range (commandError_wAckPayload_of_pipe_le hpipe p) hlength s

/-- Settles O28: the check of a command finds an error exactly when the command is ill-formed, and the
meaning then only records it. -/
theorem illFormedCommandsOnlyReturnAnError : Obligations.IllFormedCommandsOnlyReturnAnError := by
  intro i s hwf
  have hcheck : commandError i ≠ none := fun hnone => by simp [commandError_eq_none.1 hnone] at hwf
  obtain ⟨e, he⟩ := Option.ne_none_iff_exists'.1 hcheck
  exact ⟨e, exec_of_commandError he s⟩

end Sys2Proof.Machine

namespace Sys2Proof

/-! ### `pack` and `unpack` undo each other (R91, R92) -/

/-- A decoder that inverts the codes and refuses every other code answers only with the enumerant of
the code (R86). -/
theorem code_eq_of_decode_eq_ok {F : Type} {n : Nat} {code : F → BitVec n}
    {decode : BitVec n → Except ConstructionError F} (hinverts : ∀ f, decode (code f) = .ok f)
    {c : BitVec n} (htotal : (∃ f, code f = c) ∨ ∃ e, decode c = .error e) {f : F}
    (h : decode c = .ok f) : code f = c := by
  obtain ⟨f', rfl⟩ | ⟨e, he⟩ := htotal
  · rw [Except.ok.inj ((hinverts f').symm.trans h)]
  · cases he.symm.trans h

theorem CrcEncodingScheme.code_of_decode {c : BitVec 1} {f : CrcEncodingScheme}
    (h : decode c = .ok f) : f.code = c :=
  code_eq_of_decode_eq_ok decode_code (.inl (code_surjective c)) h

theorem AddressWidth.code_of_decode {c : BitVec 2} {f : AddressWidth} (h : decode c = .ok f) :
    f.code = c :=
  code_eq_of_decode_eq_ok decode_code
    ((em _).imp_right fun hnone => ⟨_, decode_eq_error (not_exists.1 hnone)⟩) h

theorem AutoRetransmitDelay.code_of_decode {c : BitVec 4} {f : AutoRetransmitDelay}
    (h : decode c = .ok f) : f.code = c :=
  code_eq_of_decode_eq_ok decode_code (.inl (code_surjective c)) h

theorem DataRate.code_of_decode {c : BitVec 3} {f : DataRate} (h : decode c = .ok f) :
    f.code = c :=
  code_eq_of_decode_eq_ok decode_code
    ((em _).imp_right fun hnone => ⟨_, decode_eq_error (not_exists.1 hnone)⟩) h

theorem RfPower.code_of_decode {c : BitVec 2} {f : RfPower} (h : decode c = .ok f) : f.code = c :=
  code_eq_of_decode_eq_ok decode_code (.inl (code_surjective c)) h

/-- Setting a slot from the integer it has in `r` is the setter of the value it has in `r`. -/
theorem RegValue.putCode_slotCode {R : RegType} (s : Slot R) (r t : RegValue R) :
    t.putCode s (r.slotCode s) = t.withSlot (s.reading r) := by
  cases s with
  | bool s => cases h : r.getBool s <;> simp [putCode, slotCode, Slot.reading, withSlot, h]
  | raw s => exact (withRaw_ok.2 ⟨r.getRaw_lt s, rfl⟩).symm
  | crco | aw | ard | rfDr | rfPwr =>
    simp [putCode, slotCode, Slot.reading, withSlot, Except.map]

/-- From bits that are those of `r`, `unpack`'s loop makes the assignments that write `r` out. -/
theorem RegValue.unpackSlots_eq_withSlots {R : RegType} {v : BitVec 40} {r : RegValue R}
    {ds : List (SlotDesc R)} (h : ∀ d ∈ ds, bitsAt v d.offset d.width = r.descCode d)
    (t : RegValue R) :
    t.unpackSlots v ds = t.withSlots (ds.filterMap fun d => d.slot.map fun s => s.reading r) := by
  induction ds generalizing t with
  | nil => rfl
  | cons d ds ih =>
    obtain ⟨hd, hds⟩ := List.forall_mem_cons.1 h
    obtain ⟨slot, offset, width⟩ := d
    cases slot with
    | none =>
      have hok : t.unpackSlot v ⟨none, offset, width⟩ = .ok t := if_pos hd
      simp [unpackSlots, hok, ih hds]
    | some s =>
      have hset : t.unpackSlot v ⟨some s, offset, width⟩ = t.withSlot (s.reading r) := by
        rw [← putCode_slotCode]
        exact congrArg (RegValue.putCode s · t) hd
      simp [unpackSlots, withSlots, hset, ih hds]

/-- Settles O13: the bits of a packed value are the integers of its slots, so the loop assigns every
slot as it reads in the value. -/
theorem unpackInvertsPack : Obligations.UnpackInvertsPack := by
  intro R r
  rw [RegValue.unpack, if_pos r.pack_length,
    RegValue.unpackSlots_eq_withSlots fun _ => r.bitsAt_pack]
  exact r.withSlots_assigns _

theorem except_map_eq_ok_iff {ε α β : Type} {f : α → β} {x : Except ε α} {y : β} :
    x.map f = .ok y ↔ ∃ a, x = .ok a ∧ f a = y := by
  cases x <;> simp [Except.map]

/-- A decoded code is the code of the enumerant that is set. -/
theorem exists_code_of_map_decode {F α : Type} {n : Nat} {code : F → BitVec n}
    {decode : BitVec n → Except ConstructionError F}
    (hcode : ∀ {c f}, decode c = .ok f → code f = c) {c : Nat} (hc : c < 2 ^ n) {set : F → α} {x : α}
    (h : (decode (BitVec.ofNat n c)).map set = .ok x) : ∃ f, (code f).toNat = c ∧ set f = x := by
  obtain ⟨f, hdecode, hset⟩ := except_map_eq_ok_iff.1 h
  exact ⟨f, by rw [hcode hdecode, BitVec.toNat_ofNat, Nat.mod_eq_of_lt hc], hset⟩

/-- Setting a slot from bits, if it succeeds, is the setter of a value with that code (R92). -/
theorem RegValue.exists_withSlot_of_putCode {R : RegType} {s : Slot R} {c : Nat} {r r' : RegValue R}
    (hc : c < 2 ^ s.width) (h : r.putCode s c = .ok r') :
    ∃ a, a.slot = s ∧ a.code = c ∧ r.withSlot a = .ok r' := by
  cases s with
  | bool s =>
    have hcode : (c == 1).toNat = c := by
      have hbit : c = 0 ∨ c = 1 := by simp only [Slot.width] at hc; omega
      obtain rfl | rfl := hbit <;> rfl
    exact ⟨.bool s (c == 1), rfl, hcode, h⟩
  | raw s => exact ⟨.raw s c, rfl, rfl, withRaw_ok.2 ⟨hc, (Except.ok.inj h).symm⟩⟩
  | crco =>
    obtain ⟨f, hf, rfl⟩ := exists_code_of_map_decode CrcEncodingScheme.code_of_decode hc h
    exact ⟨.crco f, rfl, hf, rfl⟩
  | aw =>
    obtain ⟨f, hf, rfl⟩ := exists_code_of_map_decode AddressWidth.code_of_decode hc h
    exact ⟨.aw f, rfl, hf, rfl⟩
  | ard =>
    obtain ⟨f, hf, rfl⟩ := exists_code_of_map_decode AutoRetransmitDelay.code_of_decode hc h
    exact ⟨.ard f, rfl, hf, rfl⟩
  | rfDr =>
    obtain ⟨f, hf, rfl⟩ := exists_code_of_map_decode DataRate.code_of_decode hc h
    exact ⟨.rfDr f, rfl, hf, rfl⟩
  | rfPwr =>
    obtain ⟨f, hf, rfl⟩ := exists_code_of_map_decode RfPower.code_of_decode hc h
    exact ⟨.rfPwr f, rfl, hf, rfl⟩

theorem bitsAt_lt (v : BitVec 40) (offset width : Nat) : bitsAt v offset width < 2 ^ width :=
  Nat.mod_lt _ (Nat.two_pow_pos _)

/-- One turn of `unpack`'s loop sets its slot to the slot's bits and keeps every other slot; at a
reserved slot it has found no 1 (R92, R121). -/
theorem RegValue.unpackSlot_ok {R : RegType} {v : BitVec 40} {d : SlotDesc R} (hd : d ∈ layout R)
    {r r' : RegValue R} (h : r.unpackSlot v d = .ok r') :
    r'.descCode d = bitsAt v d.offset d.width ∧ ∀ t ∉ d.slot, r'.slotCode t = r.slotCode t := by
  obtain ⟨slot, offset, width⟩ := d
  cases slot with
  | none =>
    simp only [unpackSlot] at h
    split at h
    next hzero => exact ⟨hzero.symm, fun t _ => by rw [Except.ok.inj h]⟩
    next => cases h
  | some s =>
    have hwidth : s.width = width := layout_slot_width _ hd s rfl
    obtain ⟨a, rfl, hcode, hset⟩ := exists_withSlot_of_putCode (hwidth ▸ bitsAt_lt v offset width) h
    refine ⟨?_, fun t ht => ?_⟩
    · simp [descCode, slotCode_of_withSlot hset, hcode]
    · have hne : t ≠ a.slot := fun he => ht (by simp [he])
      rw [slotCode_of_withSlot hset, if_neg hne]

/-- `unpack`'s loop leaves every slot it passes with its bits, since no later turn sets it again, and
keeps the slots it does not pass. -/
theorem RegValue.unpackSlots_ok {R : RegType} {v : BitVec 40} {ds : List (SlotDesc R)}
    (hds : ds ⊆ layout R) (hnodup : (ds.filterMap (·.slot)).Nodup) {r r' : RegValue R}
    (h : r.unpackSlots v ds = .ok r') :
    (∀ d ∈ ds, r'.descCode d = bitsAt v d.offset d.width) ∧
      ∀ t ∉ ds.filterMap (·.slot), r'.slotCode t = r.slotCode t := by
  induction ds generalizing r with
  | nil =>
    obtain rfl := Except.ok.inj h
    simp
  | cons d ds ih =>
    obtain ⟨hd, hrest⟩ := List.cons_subset.1 hds
    cases hslot : r.unpackSlot v d with
    | error e => simp [unpackSlots, hslot] at h
    | ok r₁ =>
      simp only [unpackSlots, hslot] at h
      obtain ⟨hset, hkept⟩ := unpackSlot_ok hd hslot
      rw [List.forall_mem_cons]
      cases hs : d.slot with
      | none =>
        simp only [List.filterMap_cons, hs] at hnodup ⊢
        obtain ⟨hsets, hkeeps⟩ := ih hrest hnodup h
        have hsame : r'.descCode d = r₁.descCode d := by simp [descCode, hs]
        refine ⟨⟨hsame.trans hset, hsets⟩, fun t ht => ?_⟩
        exact (hkeeps t ht).trans (hkept t (by simp [hs]))
      | some s =>
        simp only [List.filterMap_cons, hs, List.nodup_cons, List.mem_cons, not_or] at hnodup ⊢
        obtain ⟨hs', hnodup⟩ := hnodup
        obtain ⟨hsets, hkeeps⟩ := ih hrest hnodup h
        have hsame : r'.descCode d = r₁.descCode d := by simp [descCode, hs, hkeeps s hs']
        refine ⟨⟨hsame.trans hset, hsets⟩, fun t ⟨hne, ht⟩ => ?_⟩
        exact (hkeeps t ht).trans (hkept t (by simp [hs, Ne.symm hne]))

/-- Bytes that unpack to a value hold at each slot what the value packs there (R92). -/
theorem RegValue.descCode_of_unpack {R : RegType} {b : List Byte} {r : RegValue R}
    (h : unpack R b = .ok r) {d : SlotDesc R} (hd : d ∈ layout R) :
    r.descCode d = bitsAt (leValue b) d.offset d.width := by
  unfold unpack at h
  split at h
  next =>
    obtain ⟨hsets, -⟩ := unpackSlots_ok (List.Subset.refl _) (Machine.layout_slots_nodup R) h
    exact hsets d hd
  next => cases h

theorem RegValue.length_of_unpack {R : RegType} {b : List Byte} {r : RegValue R}
    (h : unpack R b = .ok r) : b.length = R.width := by
  by_contra hlength
  cases (unpack_of_length_ne hlength).symm.trans h

/-- Each bit of a register belongs to exactly one slot (10_state.md section 2). -/
theorem layout_covers_once (R : RegType) : ∀ i < 8 * R.width,
    ((layout R).filter fun d => decide (d.offset ≤ i ∧ i < d.offset + d.width)).length = 1 := by
  cases R <;> decide

theorem exists_mem_layout_of_lt {R : RegType} {i : Nat} (h : i < 8 * R.width) :
    ∃ d ∈ layout R, d.offset ≤ i ∧ i < d.offset + d.width := by
  obtain ⟨d, hd⟩ := List.length_eq_one_iff.1 (layout_covers_once R i h)
  obtain ⟨hmem, hbit⟩ := List.mem_filter.1 (hd ▸ List.mem_singleton_self d)
  exact ⟨d, hmem, of_decide_eq_true hbit⟩

/-- Bytes reach no bit above the last of them (R48). -/
theorem getLsbD_leValue_of_le {b : List Byte} {i : Nat} (h : 8 * b.length ≤ i) :
    (leValue b).getLsbD i = false := by
  induction b generalizing i with
  | nil => simp [leValue]
  | cons x xs ih =>
    rw [List.length_cons] at h
    simp [leValue, ih (i := i - 8) (by omega), BitVec.getLsbD_of_ge x i (by omega)]

/-- Values whose slots hold equal bits are equal byte sequences: the slots leave no bit out (R20). -/
theorem leValue_eq_of_bitsAt_eq {R : RegType} {b c : List Byte} (hb : b.length = R.width)
    (hc : c.length = R.width)
    (h : ∀ d ∈ layout R, bitsAt (leValue b) d.offset d.width = bitsAt (leValue c) d.offset d.width) :
    leValue b = leValue c := by
  refine BitVec.eq_of_getLsbD_eq fun i _ => ?_
  by_cases hi : i < 8 * R.width
  · obtain ⟨d, hd, hlow, hhigh⟩ := exists_mem_layout_of_lt hi
    have hbit := congrArg (Nat.testBit · (i - d.offset)) (h d hd)
    simpa [testBit_bitsAt, Nat.add_sub_cancel' hlow, show i - d.offset < d.width by omega] using hbit
  · rw [getLsbD_leValue_of_le (by omega), getLsbD_leValue_of_le (by omega)]

/-- Up to five bytes are read back from the value they make (R48, R91). -/
theorem leBytes_leValue {b : List Byte} (h : b.length ≤ 5) : leBytes b.length (leValue b) = b := by
  induction b with
  | nil => rfl
  | cons x xs ih =>
    rw [List.length_cons] at h ⊢
    have hhead : (leValue (x :: xs)).setWidth 8 = x := by
      refine BitVec.eq_of_getLsbD_eq fun i hi => ?_
      simp [leValue, hi]
    have htail : leValue (x :: xs) >>> 8 = leValue xs := by
      refine BitVec.eq_of_getLsbD_eq fun i hi => ?_
      rw [BitVec.getLsbD_ushiftRight]
      by_cases hlow : 8 + i < 40
      · simp [leValue, hlow, -BitVec.getLsbD_eq_getElem]
      · rw [BitVec.getLsbD_of_ge _ _ (not_lt.1 hlow), getLsbD_leValue_of_le (by omega)]
    rw [leBytes_succ, hhead, htail, ih (by omega)]

theorem RegValue.pack_of_unpack {R : RegType} {b : List Byte} {r : RegValue R}
    (h : unpack R b = .ok r) : r.pack = b := by
  have hb := length_of_unpack h
  have hvalue : leValue r.pack = leValue b :=
    leValue_eq_of_bitsAt_eq r.pack_length hb fun d hd =>
      (r.bitsAt_pack hd).trans (descCode_of_unpack h hd)
  rw [← leBytes_leValue (b := b) (hb ▸ R.width_le), ← hvalue, hb, ← r.pack_length,
    leBytes_leValue (r.pack_length ▸ R.width_le)]

/-- `unpack` and `pack` undo each other: bytes are a value's exactly when the value packs to them. -/
theorem RegValue.unpack_eq_ok_iff {R : RegType} {b : List Byte} {r : RegValue R} :
    unpack R b = .ok r ↔ r.pack = b :=
  ⟨pack_of_unpack, fun h => h ▸ unpackInvertsPack R r⟩

/-- Settles O14: the converse is `pack_of_unpack`, and equal bytes unpack to one value. -/
theorem packInvertsUnpack : Obligations.PackInvertsUnpack := by
  intro R
  refine ⟨fun b r => RegValue.pack_of_unpack, fun r r' h => ?_⟩
  have hunpack := unpackInvertsPack R r
  rw [h, unpackInvertsPack] at hunpack
  exact (Except.ok.inj hunpack).symm

/-- Settles O6: widths and bits by evaluation of each layout; a bit of the packed value asks only
whether some slot sets it, so the order of the slots does not matter. -/
theorem slotsTileTheRegister : Obligations.SlotsTileTheRegister := by
  refine fun R => ⟨by cases R <;> decide, layout_covers_once R, fun r ds hperm => ?_⟩
  refine BitVec.eq_of_getLsbD_eq fun i hi => ?_
  rw [Bool.eq_iff_iff, RegValue.packed, r.getLsbD_foldl_iff _ _ hi, r.getLsbD_foldl_iff _ _ hi]
  simp only [hperm.mem_iff]

end Sys2Proof

namespace Sys2Proof

open Machine

/-! ### The decoder undoes the encoder (R69 to R72) -/

/-- A register type is found at its address, since no two types share one (10_state.md section 4). -/
@[simp] theorem RegType.ofAddress_address (R : RegType) : ofAddress R.address = some R := by
  cases R <;> decide

theorem RegType.address_of_ofAddress {a : Byte} {R : RegType} (h : ofAddress a = some R) :
    R.address = a := by
  simpa using List.find?_some h

theorem expectData_eq_ok_iff {kind : CommandKind} {want data : List Byte} {i j : Instr} :
    expectData kind want data i = .ok j ↔ data = want ∧ i = j := by
  unfold expectData
  split
  next => split <;> simp [*]
  next hlength => simp [show data ≠ want from fun h => hlength (congrArg _ h)]

theorem expectPayload_eq_ok_iff {kind : CommandKind} {data : List Byte} {i j : Instr} :
    expectPayload kind data i = .ok j ↔ lengthInRange data.length ∧ i = j := by
  unfold expectPayload
  split
  next hlength => simpa using fun _ => hlength
  next hlength => simp [hlength]

/-- What an opcode says of the operand, by the form of its row: a register address, a pipe number, or
nothing (R63, R72). -/
def CommandKind.operandField (op : Byte) : CommandKind → Byte
  | .rRegister | .wRegister => addressBits op
  | .wAckPayload => BitVec.ofNat 8 (pipeBits op)
  | .rRxPayload | .rRxPlWid | .wTxPayload | .wTxPayloadNoack | .flushTx | .flushRx | .reuseTxPl
  | .nop | .activate => 0

/-- An opcode is the template of its row and its operand field, opcode by opcode (R63, R72). -/
theorem template_or_operandField (op : Byte) :
    ∀ k ∈ CommandKind.ofOpcode op, k.template ||| k.operandField op = op := by
  revert op
  decide

/-- The row of a well-formed command's opcode is that of its kind (R70, R72). -/
theorem ofOpcode_opcode {i : Instr} (h : i.wellFormed = true) :
    CommandKind.ofOpcode (i.kind.template ||| i.operandBits) = some i.kind := by
  have hproduced := producedKind_opcode h
  rw [producedKind_eq_filter] at hproduced
  exact (Option.filter_eq_some_iff.1 hproduced).1

/-- The pipe of a PIPE-form opcode is read back (R65, R72). -/
theorem pipeBits_pipeForm {pipe : Nat} (h : pipe ≤ 5) :
    pipeBits (CommandKind.template .wAckPayload ||| BitVec.ofNat 8 pipe) = pipe := by
  interval_cases pipe <;> decide

/-- The address of a REG-form opcode is read back (R64, R72). -/
theorem addressBits_regForm (R : RegType) :
    addressBits (CommandKind.template .rRegister ||| R.address) = R.address ∧
      addressBits (CommandKind.template .wRegister ||| R.address) = R.address := by
  cases R <;> decide

/-- What data bytes decode to is a well-formed command of that row, with that operand and those data
bytes (R67, R72). -/
theorem decodeData_ok {o : PayloadOrder} {op : Byte} {data : List Byte} {k : CommandKind} {i : Instr}
    (h : decodeData o op data k = .ok i) :
    i.wellFormed = true ∧ i.kind = k ∧ i.operandBits = k.operandField op ∧ i.dataBytes o = data := by
  cases k with
  | rRegister =>
    cases haddress : RegType.ofAddress (addressBits op) with
    | none => simp [decodeData, haddress] at h
    | some R =>
      simp only [decodeData, haddress, expectData_eq_ok_iff] at h
      obtain ⟨rfl, rfl⟩ := h
      exact ⟨rfl, rfl, RegType.address_of_ofAddress haddress, rfl⟩
  | wRegister =>
    cases haddress : RegType.ofAddress (addressBits op) with
    | none => simp [decodeData, haddress] at h
    | some R =>
      cases hunpack : RegValue.unpack R data with
      | error e => simp [decodeData, haddress, hunpack] at h
      | ok r =>
        simp only [decodeData, haddress, hunpack, Except.ok.injEq] at h
        subst h
        exact ⟨rfl, rfl, RegType.address_of_ofAddress haddress, RegValue.pack_of_unpack hunpack⟩
  | rRxPayload =>
    simp only [decodeData] at h
    split at h
    next hlength =>
      obtain ⟨hdata, rfl⟩ := expectData_eq_ok_iff.1 h
      exact ⟨decide_eq_true hlength, rfl, rfl, hdata.symm⟩
    next => cases h
  | wTxPayload | wTxPayloadNoack =>
    obtain ⟨hlength, rfl⟩ := expectPayload_eq_ok_iff.1 h
    exact ⟨by simpa [Instr.wellFormed] using hlength, rfl, rfl, order_order o data⟩
  | wAckPayload =>
    simp only [decodeData] at h
    split at h
    next hpipe =>
      obtain ⟨hlength, rfl⟩ := expectPayload_eq_ok_iff.1 h
      exact ⟨by simp [Instr.wellFormed, hpipe, hlength], rfl, rfl, order_order o data⟩
    next => cases h
  | rRxPlWid | flushTx | flushRx | reuseTxPl | nop | activate =>
    obtain ⟨rfl, rfl⟩ := expectData_eq_ok_iff.1 h
    exact ⟨rfl, rfl, rfl, rfl⟩

/-- The data bytes of a well-formed command decode to it, when the opcode says its operand. -/
theorem decodeData_dataBytes {i : Instr} (h : i.wellFormed = true) (o : PayloadOrder) :
    decodeData o (i.kind.template ||| i.operandBits) (i.dataBytes o) i.kind = .ok i := by
  rw [← commandError_eq_none] at h
  cases i with
  | rRegister R =>
    obtain ⟨haddress, -⟩ := addressBits_regForm R
    simp [decodeData, Instr.kind, Instr.operandBits, Instr.dataBytes, haddress, expectData_eq_ok_iff]
  | wRegister R r =>
    obtain ⟨-, haddress⟩ := addressBits_regForm R
    simp [decodeData, Instr.kind, Instr.operandBits, Instr.dataBytes, haddress, unpackInvertsPack R r]
  | rRxPayload n =>
    have hlength : lengthInRange (zeros n).length :=
      (zeros_length n).symm ▸ readLengthError_eq_none.1 h
    exact (if_pos hlength).trans (expectData_eq_ok_iff.2 (by simp [Instr.dataBytes]))
  | wTxPayload p | wTxPayloadNoack p =>
    have hlength : lengthInRange (order o p).length :=
      (order_length o p).symm ▸ payloadError_eq_none.1 h
    exact expectPayload_eq_ok_iff.2 ⟨hlength, by simp [Instr.dataBytes]⟩
  | wAckPayload pipe p =>
    obtain ⟨hpipe, hrange⟩ := ackError_eq_none.1 h
    have hlength : lengthInRange (order o p).length := (order_length o p).symm ▸ hrange
    simp only [decodeData, Instr.kind, Instr.operandBits, Instr.dataBytes, pipeBits_pipeForm hpipe]
    rw [if_pos hpipe]
    exact expectPayload_eq_ok_iff.2 ⟨hlength, by rw [order_order]⟩
  | rRxPlWid | flushTx | flushRx | reuseTxPl | nop | activate =>
    exact expectData_eq_ok_iff.2 ⟨rfl, rfl⟩

/-- A frame spells a command exactly when it is that command's frame and the command is well-formed
(R71, R72). -/
theorem decodeFrame_eq_ok_iff {o : PayloadOrder} {f : Frame} {i : Instr} :
    decodeFrame o f = .ok i ↔ i.wellFormed = true ∧ encode o i = f := by
  constructor
  · intro h
    cases f with
    | nil => cases h
    | cons op data =>
      cases hkind : CommandKind.ofOpcode op with
      | none => simp [decodeFrame, hkind] at h
      | some k =>
        simp only [decodeFrame, hkind] at h
        obtain ⟨hwf, rfl, hoperand, hdata⟩ := decodeData_ok h
        exact ⟨hwf, by rw [encode, hoperand, hdata, template_or_operandField op _ hkind]⟩
  · rintro ⟨hwf, rfl⟩
    simp only [encode, decodeFrame, ofOpcode_opcode hwf]
    exact decodeData_dataBytes hwf o

/-- Settles O33: the opcode names the command's row and operand, and each operand form of data bytes is
read back. -/
theorem decodeInvertsEncode : Obligations.DecodeInvertsEncode :=
  fun _ _ hwf => decodeFrame_eq_ok_iff.2 ⟨hwf, rfl⟩

/-- Settles O34: an opcode is its row's template and operand field, and no other data bytes decode. -/
theorem encodeInvertsDecode : Obligations.EncodeInvertsDecode :=
  fun _ _ _ => decodeFrame_eq_ok_iff.1

/-- Settles O35: both commands are what their one frame decodes to. -/
theorem encodeIsInjective : Obligations.EncodeIsInjective := by
  intro o i j hi hj hframe
  have hdecode := decodeInvertsEncode o i hi
  rw [hframe, decodeInvertsEncode o j hj] at hdecode
  exact (Except.ok.inj hdecode).symm

/-- Every produced opcode is that of some well-formed command of its kind (R70). -/
theorem exists_command_of_producedKind {op : Byte} {k : CommandKind} (h : producedKind op = some k) :
    ∃ i : Instr, i.wellFormed = true ∧ i.kind = k ∧ i.operandBits = k.operandField op := by
  rw [producedKind_eq_filter] at h
  obtain ⟨-, hoperand⟩ := Option.filter_eq_some_iff.1 h
  cases k with
  | rRegister =>
    obtain ⟨R, hR⟩ := Option.isSome_iff_exists.1 hoperand
    exact ⟨.rRegister R, rfl, rfl, RegType.address_of_ofAddress hR⟩
  | wRegister =>
    obtain ⟨R, hR⟩ := Option.isSome_iff_exists.1 hoperand
    exact ⟨.wRegister R (.withDefaults R), rfl, rfl, RegType.address_of_ofAddress hR⟩
  | wAckPayload =>
    have hpipe : pipeBits op ≤ Config.maxPipe := of_decide_eq_true hoperand
    exact ⟨.wAckPayload (pipeBits op) [0], by simp [Instr.wellFormed, hpipe], rfl, rfl⟩
  | rRxPayload => exact ⟨.rRxPayload 1, rfl, rfl, rfl⟩
  | rRxPlWid => exact ⟨.rRxPlWid, rfl, rfl, rfl⟩
  | wTxPayload => exact ⟨.wTxPayload [0], rfl, rfl, rfl⟩
  | wTxPayloadNoack => exact ⟨.wTxPayloadNoack [0], rfl, rfl, rfl⟩
  | flushTx => exact ⟨.flushTx, rfl, rfl, rfl⟩
  | flushRx => exact ⟨.flushRx, rfl, rfl, rfl⟩
  | reuseTxPl => exact ⟨.reuseTxPl, rfl, rfl, rfl⟩
  | nop => exact ⟨.nop, rfl, rfl, rfl⟩
  | activate => exact ⟨.activate, rfl, rfl, rfl⟩

/-- Settles O36: a produced opcode begins the frame of a command that has it, and the opcode of every
frame that decodes is classified as of the command's kind. -/
theorem opcodesAreClassified : Obligations.OpcodesAreClassified := by
  refine fun o op => ⟨fun k hk => ⟨?_, fun data i hdecode => ?_⟩, fun hnone data i hdecode => ?_⟩
  · obtain ⟨i, hwf, rfl, hoperand⟩ := exists_command_of_producedKind hk
    have hkind : CommandKind.ofOpcode op = some i.kind := by
      rw [producedKind_eq_filter] at hk
      exact (Option.filter_eq_some_iff.1 hk).1
    refine ⟨i.dataBytes o, i, decodeFrame_eq_ok_iff.2 ⟨hwf, ?_⟩⟩
    rw [encode, hoperand, template_or_operandField op _ hkind]
  · obtain ⟨hwf, hframe⟩ := decodeFrame_eq_ok_iff.1 hdecode
    obtain ⟨rfl, -⟩ := List.cons.inj hframe
    exact Option.some.inj ((producedKind_opcode hwf).symm.trans hk)
  · obtain ⟨why, herror⟩ := decodeFrame_error_of_producedKind_eq_none hnone o data
    cases herror.symm.trans hdecode

end Sys2Proof

namespace Sys2Proof.Machine

/-! ### The output of a step: one frame of a command, one error with its cause, or nothing -/

/-- The errors that building a command raises have their cause (R116 to R118). -/
theorem hasCause_of_commandError {i : Instr} {e : ConstructionError} (h : commandError i = some e) :
    e.hasCause = true := by
  have hcause {n : Nat} (hn : ¬(1 ≤ n ∧ n ≤ 32)) : (!decide (lengthInRange n)) = true := by
    simpa only [Bool.not_eq_true', decide_eq_false_iff_not] using hn
  cases i with
  | rRxPayload n =>
    obtain ⟨hlength, rfl⟩ := readLengthError_eq_some.1 h
    exact hcause hlength
  | wTxPayload p | wTxPayloadNoack p =>
    obtain ⟨hlength, rfl⟩ := payloadError_eq_some.1 h
    exact hcause hlength
  | wAckPayload pipe p =>
    obtain ⟨hpipe, rfl⟩ | ⟨-, hlength, rfl⟩ := ackError_eq_some.1 h
    · exact decide_eq_true hpipe
    · exact hcause hlength
  | rRegister | wRegister | rRxPlWid | flushTx | flushRx | reuseTxPl | nop | activate => cases h

/-- The error of a setter has its cause (R115). -/
theorem hasCause_of_withSlot {R : RegType} {r : RegValue R} {a : Assign R} {e : ConstructionError}
    (h : r.withSlot a = .error e) : e.hasCause = true := by
  obtain ⟨s, v, rfl, -⟩ := RegValue.withSlot_error h
  obtain ⟨hover, rfl⟩ := RegValue.withRaw_error.1 h
  simp [ConstructionError.hasCause, hover]

theorem hasCause_of_withSlots {R : RegType} {r : RegValue R} {as : List (Assign R)}
    {e : ConstructionError} (h : r.withSlots as = .error e) : e.hasCause = true := by
  induction as generalizing r with
  | nil => cases h
  | cons a as ih =>
    cases hset : r.withSlot a with
    | ok r' =>
      simp only [RegValue.withSlots, hset] at h
      exact ih h
    | error e' =>
      simp only [RegValue.withSlots, hset, Except.error.injEq] at h
      exact h ▸ hasCause_of_withSlot hset

/-- A W_REGISTER line builds the defaults with its assignments made in turn (R74). -/
theorem buildLine_writeRegister (R : RegType) (as : List (Assign R)) :
    buildLine (.writeRegister R as) =
      ((RegValue.withDefaults R).withSlots as).map (Instr.wRegister R) := by
  simp only [buildLine]
  cases (RegValue.withDefaults R).withSlots as <;> rfl

/-- A line raises only errors with their cause: it calls neither `F::decode` nor `unpack` (R122). -/
theorem hasCause_of_buildLine {l : Line} {e : ConstructionError} (h : buildLine l = .error e) :
    e.hasCause = true := by
  cases l with
  | command c =>
    cases hcheck : commandError c with
    | none => simp [buildLine, hcheck] at h
    | some e' =>
      simp only [buildLine, hcheck, Except.error.injEq] at h
      exact h ▸ hasCause_of_commandError hcheck
  | writeRegister R as =>
    rw [buildLine_writeRegister, except_map_eq_error_iff] at h
    exact hasCause_of_withSlots h

/-- Lines that all build make a program of their commands, in order (R76). -/
theorem buildProgram_of_map_buildLine {lines : List Line} {cs : List Instr}
    (h : lines.map buildLine = cs.map .ok) : buildProgram lines = .ok cs := by
  induction lines generalizing cs with
  | nil => simp [buildProgram, List.map_eq_nil_iff.1 h.symm]
  | cons l ls ih =>
    obtain ⟨c, cs, rfl, hl, hls⟩ := List.map_eq_cons_iff.1 h.symm
    simp [buildProgram, ← hl, ih hls.symm]

/-- The first failing line of a program gives its error (R127, P4). -/
theorem buildProgram_of_failing_line {before after : List Line} {l : Line} {e : ConstructionError}
    (hbefore : ∀ k ∈ before, ∃ c, buildLine k = .ok c) (hl : buildLine l = .error e) :
    buildProgram (before ++ l :: after) = .error e := by
  induction before with
  | nil => simp [buildProgram, hl]
  | cons k ks ih =>
    obtain ⟨⟨c, hc⟩, hks⟩ := List.forall_mem_cons.1 hbefore
    simp [buildProgram, hc, ih hks]

/-- The error of a program is that of one of its lines (R127). -/
theorem exists_line_of_buildProgram_error {lines : List Line} {e : ConstructionError}
    (h : buildProgram lines = .error e) : ∃ l ∈ lines, buildLine l = .error e := by
  induction lines with
  | nil => cases h
  | cons l ls ih =>
    cases hl : buildLine l with
    | error e' =>
      simp only [buildProgram, hl, Except.error.injEq] at h
      exact ⟨l, List.mem_cons_self, h ▸ hl⟩
    | ok c =>
      cases hls : buildProgram ls with
      | ok cs => simp [buildProgram, hl, hls] at h
      | error e' =>
        simp only [buildProgram, hl, hls, Except.error.injEq] at h
        obtain ⟨k, hk, hbuild⟩ := ih (h ▸ hls)
        exact ⟨k, List.mem_cons_of_mem l hk, hbuild⟩

/-- Everything a step can hand out: nothing, the frame of one well-formed command, or one error that
has its cause. -/
theorem step_output {s t : State} (h : step s = .next t) :
    (t.frames = s.frames ∧ t.errors = s.errors) ∨
    (∃ i : Instr, i.wellFormed = true ∧ t.frames = s.frames ++ [encode s.payloadOrder i] ∧
      t.errors = s.errors) ∨
    (∃ e : ConstructionError, e.hasCause = true ∧ t.frames = s.frames ∧ t.errors = s.errors ++ [e]) := by
  obtain ⟨-, rfl⟩ | ⟨i, rest, -, hexec⟩ | ⟨lines, rest, -, hsubmit⟩ := step_next h
  · exact .inl ⟨rfl, rfl⟩
  · rw [exec_eq_construct, construct_next] at hexec
    obtain ⟨e, he, rfl⟩ | ⟨hnone, rfl⟩ := hexec
    · exact .inr (.inr ⟨e, hasCause_of_commandError he, rfl, rfl⟩)
    · exact .inr (.inl ⟨i, commandError_eq_none.1 hnone, rfl, rfl⟩)
  · obtain ⟨-, ⟨e, he, rfl⟩ | ⟨cs, -, rfl⟩⟩ := submit_next hsubmit
    · obtain ⟨l, -, hl⟩ := exists_line_of_buildProgram_error he
      exact .inr (.inr ⟨e, hasCause_of_buildLine hl, rfl, rfl⟩)
    · exact .inl ⟨rfl, rfl⟩

/-- The frame of a well-formed command spells it (R72). -/
theorem spells_encode (o : PayloadOrder) {i : Instr} (h : i.wellFormed = true) :
    spells o (encode o i) = true := by
  simp only [spells, decodeInvertsEncode o i h]

/-- Settles O50: the payload order is kept, and the one frame a step can add is a command's. -/
theorem stepKeepsFramesSpellingCommands : Obligations.StepKeepsFramesSpellingCommands := by
  intro s t hspell hstep
  unfold State.framesSpell at hspell ⊢
  rw [step_payloadOrder hstep]
  obtain ⟨hframes, -⟩ | ⟨i, hwf, hframes, -⟩ | ⟨e, -, hframes, -⟩ := step_output hstep
  · rwa [hframes]
  · rw [hframes, List.all_append, hspell]
    simp [spells_encode s.payloadOrder hwf]
  · rwa [hframes]

/-- Settles O51: the one error a step can add has its cause. -/
theorem stepKeepsErrorsWithCauses : Obligations.StepKeepsErrorsWithCauses := by
  intro s t hcauses hstep
  unfold State.errorsHaveCause at hcauses ⊢
  obtain ⟨-, herrors⟩ | ⟨i, -, -, herrors⟩ | ⟨e, hcause, -, herrors⟩ := step_output hstep
  · rwa [herrors]
  · rwa [herrors]
  · rw [herrors, List.all_append, hcauses]
    simp [hcause]

/-- Settles O48: each case of `step_output` adds at the end of one list at most. -/
theorem stepOnlyAddsToTheOutput : Obligations.StepOnlyAddsToTheOutput := by
  intro s t hstep
  obtain ⟨hframes, herrors⟩ | ⟨i, -, hframes, herrors⟩ | ⟨e, -, hframes, herrors⟩ :=
    step_output hstep
  · exact ⟨[], [], by simpa using hframes, by simpa using herrors, by simp⟩
  · exact ⟨[encode s.payloadOrder i], [], hframes, by simpa using herrors, by simp⟩
  · exact ⟨[], [e], by simpa using hframes, herrors, by simp⟩

/-- Settles O52: the lists are empty before the first encoding. -/
theorem resetMeetsTheInvariants : Obligations.ResetMeetsTheInvariants :=
  ⟨rfl, rfl, rfl⟩

/-- Settles O29: a command is one construction, whose check decides well-formedness. -/
theorem commandsChangeNothingElse : Obligations.CommandsChangeNothingElse := by
  intro i s t hexec
  refine ⟨exec_payloadOrder hexec, ?_⟩
  obtain ⟨e, he, rfl⟩ | ⟨hnone, f, rfl⟩ := exec_next hexec
  · have hwf : i.wellFormed = false := by
      rw [← Bool.not_eq_true, ← commandError_eq_none, he]
      simp
    exact ⟨rfl, .inr ⟨rfl, ⟨e, rfl⟩, hwf⟩⟩
  · exact ⟨rfl, .inl ⟨⟨f, rfl⟩, rfl, commandError_eq_none.1 hnone⟩⟩

/-- Settles O30: the meanings are constructions of the opcode map's frames. -/
theorem meaningsAgreeWithTheOpcodeMap : Obligations.MeaningsAgreeWithTheOpcodeMap :=
  fun _ s hwf => exec_of_wellFormed hwf s

/-! ### Taking what is presented (R16) -/

/-- A presented frame runs the command it spells (R72). -/
theorem step_of_pending_frame_ok {s : State} {f : Frame} {i : Instr} {rest : List Presented}
    (h : s.pending = .frame f :: rest) (hdecode : decodeFrame s.payloadOrder f = .ok i) :
    step s = exec i (s.setPending rest) := by
  simp only [step, fetch, h, hdecode]

theorem step_of_pending_program {s : State} {lines : List Line} {rest : List Presented}
    (h : s.pending = .program lines :: rest) : step s = submit lines (s.setPending rest) := by
  simp only [step, fetch, h]

/-- A presented text that reads as a program is taken as that program (R74, R76). -/
theorem step_of_pending_text {s : State} {source : List Char} {lines : List Line}
    {rest : List Presented} (h : s.pending = .text source :: rest)
    (hparse : parseProgram source = some lines) : step s = submit lines (s.setPending rest) := by
  simp only [step, fetch, h, hparse]

theorem step_of_pending_text_none {s : State} {source : List Char} {rest : List Presented}
    (h : s.pending = .text source :: rest) (hparse : parseProgram source = none) :
    step s = .refused .notInSyntax := by
  simp only [step, fetch, h, hparse]

/-- Settles O39: the oldest thing is a command, and taking it removes it. -/
theorem stepRunsThePresentedCommand : Obligations.StepRunsThePresentedCommand :=
  fun _ _ _ => step_of_pending_command

/-- Settles O40: a placed word is a frame ahead of what is pending, so taking it restores the state. -/
theorem stepRunsTheDecodedFrame : Obligations.StepRunsTheDecodedFrame :=
  ⟨fun _ _ _ _ => step_of_pending_frame_ok,
    fun s nbits w _ hdecode =>
      step_of_pending_frame_ok (s := s.withFetchWord nbits w) (rest := s.pending) rfl hdecode⟩

/-- Settles O45: a text and its program are submitted alike. -/
theorem textIsTakenAsItsProgram : Obligations.TextIsTakenAsItsProgram := by
  intro s source rest hpending
  refine ⟨fun lines hparse => ?_, step_of_pending_text_none hpending⟩
  rw [step_of_pending_text hpending hparse]
  exact (step_of_pending_program (s := { s with pending := .program lines :: rest }) rfl).symm

/-- Settles O49: there is nothing to take. -/
theorem idleStepChangesNothing : Obligations.IdleStepChangesNothing := by
  intro s hidle
  simp only [step, fetch, hidle]

/-! ### Programs (R74, R76, R127) -/

/-- A program that assigns no slot twice and builds stands its commands next. -/
theorem submit_of_buildProgram_ok {lines : List Line} {cs : List Instr}
    (honce : ∀ k ∈ lines, k.slotsOnce = true) (hbuild : buildProgram lines = .ok cs) (s : State) :
    submit lines s = .next (s.present (cs.map .command)) := by
  rw [submit, if_pos (List.all_eq_true.2 honce), hbuild]

/-- A program that assigns no slot twice and does not build returns its error; nothing of it stands. -/
theorem submit_of_buildProgram_error {lines : List Line} {e : ConstructionError}
    (honce : ∀ k ∈ lines, k.slotsOnce = true) (hbuild : buildProgram lines = .error e) (s : State) :
    submit lines s = .next (s.addError e) := by
  rw [submit, if_pos (List.all_eq_true.2 honce), hbuild]
  rfl

/-- A line that assigns a slot twice refuses its program, whatever its other lines. -/
theorem submit_of_slot_twice {lines : List Line} {k : Line} (hk : k ∈ lines)
    (htwice : k.slotsOnce = false) (s : State) :
    submit lines s = .refused .slotAssignedTwice := by
  refine if_neg fun hall => ?_
  simpa [htwice] using List.all_eq_true.1 hall k hk

/-- Settles O42: the first failing line gives the program's error, with which it is refused. -/
theorem programWithAFailingLineIsRefused : Obligations.ProgramWithAFailingLineIsRefused := by
  intro s before after l e rest hpending honce hbefore hl
  rw [step_of_pending_program hpending]
  exact submit_of_buildProgram_error honce (buildProgram_of_failing_line hbefore hl) _

/-- Settles O43: the commands stand ahead of the rest; a slot assigned twice is seen before any line is
built. -/
theorem programThatBuildsStandsItsCommandsNext :
    Obligations.ProgramThatBuildsStandsItsCommandsNext := by
  intro s lines rest hpending
  rw [step_of_pending_program hpending]
  refine ⟨fun cs honce hlines => ?_, fun ⟨R, as, hmem, htwice⟩ => ?_⟩
  · exact submit_of_buildProgram_ok honce (buildProgram_of_map_buildLine hlines) _
  · exact submit_of_slot_twice hmem (decide_eq_false htwice) _

end Sys2Proof.Machine

namespace Sys2Proof

/-! ### Setters in turn (R74, R89) -/

/-- A setter raises for the value it is given, whatever register value it is applied to (R89). -/
theorem RegValue.withSlot_eq_error_iff {R : RegType} {r : RegValue R} {a : Assign R}
    {e : ConstructionError} : r.withSlot a = .error e ↔
      ∃ s v, a = .raw s v ∧ 2 ^ s.width ≤ v ∧ e = .rawFieldOverflow R s v s.width := by
  constructor
  · intro h
    obtain ⟨s, v, rfl, he⟩ := withSlot_error h
    exact ⟨s, v, rfl, (withRaw_error.1 h).1, he⟩
  · rintro ⟨s, v, rfl, hover, rfl⟩
    exact withRaw_error.2 ⟨hover, rfl⟩

theorem RegValue.withSlot_error_congr {R : RegType} {r : RegValue R} {a : Assign R}
    {e : ConstructionError} (h : r.withSlot a = .error e) (t : RegValue R) :
    t.withSlot a = .error e :=
  withSlot_eq_error_iff.2 (withSlot_eq_error_iff.1 h)

theorem RegValue.exists_withSlot_ok_of_ok {R : RegType} {r r' : RegValue R} {a : Assign R}
    (h : r.withSlot a = .ok r') (t : RegValue R) : ∃ t', t.withSlot a = .ok t' := by
  cases ht : t.withSlot a with
  | ok t' => exact ⟨t', rfl⟩
  | error e => cases h.symm.trans (withSlot_error_congr ht r)

/-- Settles O9: whether a setter succeeds depends on its value alone, and values that agree in every
slot are equal. -/
theorem settersCommuteAndOverwrite : Obligations.SettersCommuteAndOverwrite := by
  intro R r ra a b ha
  have hcodea := RegValue.slotCode_of_withSlot ha
  refine ⟨by rw [hcodea, if_pos rfl], fun hsame => ?_, fun hne rb hb => ?_⟩
  · cases hb : r.withSlot b with
    | error e => exact RegValue.withSlot_error_congr hb ra
    | ok rb =>
      obtain ⟨rab, hab⟩ := RegValue.exists_withSlot_ok_of_ok hb ra
      have hcodes (t) : rab.slotCode t = rb.slotCode t := by
        rw [RegValue.slotCode_of_withSlot hab, RegValue.slotCode_of_withSlot hb, hcodea, hsame]
        split <;> rfl
      rw [hab, RegValue.ext_slotCode hcodes]
  · obtain ⟨rab, hab⟩ := RegValue.exists_withSlot_ok_of_ok hb ra
    obtain ⟨rba, hba⟩ := RegValue.exists_withSlot_ok_of_ok ha rb
    have hcodes (t) : rba.slotCode t = rab.slotCode t := by
      rw [RegValue.slotCode_of_withSlot hab, RegValue.slotCode_of_withSlot hba, hcodea,
        RegValue.slotCode_of_withSlot hb]
      by_cases hta : t = a.slot
      · simp [hta, hne]
      · simp [hta]
    exact ⟨rab, hab, RegValue.ext_slotCode hcodes ▸ hba⟩

/-- Assignments in turn keep the slots they do not name, and leave each slot they name once with its
value (R74). -/
theorem RegValue.slotCode_of_withSlots {R : RegType} {as : List (Assign R)} {r r' : RegValue R}
    (h : r.withSlots as = .ok r') :
    (∀ s ∉ as.map Assign.slot, r'.slotCode s = r.slotCode s) ∧
      ((as.map Assign.slot).Nodup → ∀ a ∈ as, r'.slotCode a.slot = a.code) := by
  induction as generalizing r with
  | nil =>
    obtain rfl := Except.ok.inj h
    simp
  | cons a as ih =>
    cases hset : r.withSlot a with
    | error e => simp [withSlots, hset] at h
    | ok r₁ =>
      simp only [withSlots, hset] at h
      obtain ⟨hkept, hsets⟩ := ih h
      have hcode := slotCode_of_withSlot hset
      simp only [List.map_cons, List.nodup_cons, List.forall_mem_cons]
      refine ⟨fun s hs => ?_, fun ⟨hfresh, hnodup⟩ => ⟨?_, hsets hnodup⟩⟩
      · obtain ⟨hne, hs⟩ := not_or.1 (List.mem_cons.not.1 hs)
        rw [hkept s hs, hcode, if_neg hne]
      · rw [hkept _ hfresh, hcode, if_pos rfl]

/-- Settles O44: the line's value is the defaults with the assignments made in turn. -/
theorem wRegisterLineStartsFromDefaults : Obligations.WRegisterLineStartsFromDefaults := by
  intro R as c hbuild
  rw [Machine.buildLine_writeRegister] at hbuild
  obtain ⟨r, hset, rfl⟩ := except_map_eq_ok_iff.1 hbuild
  exact ⟨r, rfl, RegValue.slotCode_of_withSlots hset⟩

/-! ### Addresses, opcodes, listed frames and error kinds -/

/-- Settles O4: the type found at an address is one. -/
theorem registerAddressesIdentifyTypes : Obligations.RegisterAddressesIdentifyTypes := by
  refine fun R => ⟨by cases R <;> decide, R.ofAddress_address, fun R' h => ?_⟩
  have hfound := R'.ofAddress_address
  rw [h, R.ofAddress_address] at hfound
  exact (Option.some.inj hfound).symm

/-- Settles O37: a template without low bits and a five-bit address share no bit, so their OR is their
sum and masks take them apart. -/
theorem registerOpcodesKeepTemplateAndAddress :
    Obligations.RegisterOpcodesKeepTemplateAndAddress := by
  intro R t ht
  have hhigh : t &&& 0xE0 = t := by revert t; decide
  have habove : R.address &&& 0xE0 = 0 := by cases R <;> decide
  have haddress : R.address &&& 0x1F = R.address := by cases R <;> decide
  have hapart : t &&& R.address = 0 := by
    rw [← haddress, BitVec.and_comm R.address, ← BitVec.and_assoc, ht]
    exact BitVec.zero_and
  refine ⟨(BitVec.add_eq_or_of_and_eq_zero _ _ hapart).symm, ?_, ?_⟩
  · rw [Machine.regOpcode, BitVec.and_or_distrib_right, hhigh, habove]
    exact BitVec.or_zero
  · rw [Machine.regOpcode, BitVec.and_or_distrib_right, ht, haddress]
    exact BitVec.zero_or

/-- Settles O38: the decoder evaluates each frame, under both orders. -/
theorem listedFramesDecode : Obligations.ListedFramesDecode := by
  intro o
  cases o <;> decide

/-- Settles O53: the numbers as listed. -/
theorem errorKindsAreNumbered : Obligations.ErrorKindsAreNumbered :=
  ⟨fun _ _ _ _ => rfl, fun _ _ => rfl, fun _ => rfl, fun _ => rfl, fun _ _ => rfl, fun _ _ => rfl,
    fun _ _ => rfl⟩

end Sys2Proof

namespace Sys2Proof.Machine

/-! ### Separators and comments (R6, R74) -/

/-- Underscores leave the value of digits alone (R6). -/
theorem digits_filter_underscores (base v : Nat) (cs : List Char) :
    digits base v (cs.filter (· ≠ '_')) = digits base v cs := by
  induction cs generalizing v with
  | nil => rfl
  | cons c cs ih =>
    by_cases hc : c = '_'
    · simp [digits, hc, ← ih v]
    · have hkept : (c :: cs).filter (· ≠ '_') = c :: cs.filter (· ≠ '_') :=
        List.filter_cons_of_pos (by simpa using hc)
      rw [hkept]
      simp only [digits, ih]

/-- Settles O58: after a first digit a number is its digits. -/
theorem separatorsInIntegersCarryNoMeaning : Obligations.SeparatorsInIntegersCarryNoMeaning := by
  refine fun base => ⟨fun c cs hc => ?_, fun cs => ?_⟩
  · simp only [number, if_neg hc, digits, digits_filter_underscores]
  · rw [number, if_pos rfl]

/-- What a line reads as depends on its tokens alone. -/
theorem parseLines_cons_congr {l m : List Char} {ls ms : List (List Char)}
    (hline : lexLine [] l = lexLine [] m) (hrest : parseLines ls = parseLines ms) :
    parseLines (l :: ls) = parseLines (m :: ms) := by
  simp only [parseLines, hline, hrest]

/-- A comment before the end of a line, whatever stands before it, changes nothing. -/
theorem parseLines_comment {comment : List Char} (h : '\n' ∉ comment) (acc code rest : List Char) :
    parseLines (linesOf acc (code ++ ';' :: comment ++ '\n' :: rest)) =
      parseLines (linesOf acc (code ++ '\n' :: rest)) := by
  induction code generalizing acc with
  | nil =>
    have hcomment : '\n' ∉ ';' :: comment := by simpa using h
    have hplain := linesOf_line (l := []) List.not_mem_nil acc rest
    rw [List.nil_append, linesOf_line hcomment, hplain]
    refine parseLines_cons_congr ?_ rfl
    rw [lexLine_comment, List.append_nil]
  | cons c cs ih =>
    simp only [List.cons_append, linesOf]
    split
    · exact parseLines_cons_congr rfl (ih [])
    · exact ih (c :: acc)

/-- A blank line gives no command (R74). -/
theorem parseProgram_blank_line (rest : List Char) :
    parseProgram ('\n' :: rest) = parseProgram rest := by
  show parseLines ([] :: linesOf [] rest) = parseLines (linesOf [] rest)
  cases h : parseLines (linesOf [] rest) <;> simp [parseLines, lexLine, endWord, h]

/-- Settles O57: the text with the comment and the text without it have the same lines of tokens; a line
that is only a comment is then blank. -/
theorem commentsCarryNoMeaning : Obligations.CommentsCarryNoMeaning := by
  refine fun code comment rest h => ⟨parseLines_comment h [] code rest, ?_⟩
  exact (parseLines_comment h [] [] rest).trans (parseProgram_blank_line rest)

/-! ### Programs written out read as themselves (R74) -/

/-- A text's first line is read, and then the lines after it. -/
theorem parseProgram_line {l : List Char} {line : Line} (hfeed : '\n' ∉ l)
    (hline : (lexLine [] l).bind parseTokens = some line) (rest : List Char) :
    parseProgram (l ++ '\n' :: rest) = (parseProgram rest).map (line :: ·) := by
  unfold parseProgram
  rw [linesOf_line hfeed, List.reverse_nil, List.nil_append]
  obtain ⟨ts, hlex, hparse⟩ := Option.bind_eq_some_iff.1 hline
  cases ts with
  | nil => cases hparse
  | cons t ts =>
    cases hrest : parseLines (linesOf [] rest) <;> simp [parseLines, hlex, hparse, hrest]

theorem newline_not_mem_separated {xs : List (List Char)} (h : ∀ x ∈ xs, '\n' ∉ x) :
    '\n' ∉ separated xs := by
  match xs with
  | [] => exact List.not_mem_nil
  | [x] => exact h x List.mem_cons_self
  | x :: y :: rest =>
    obtain ⟨hx, hrest⟩ := List.forall_mem_cons.1 h
    simp [separated, hx, newline_not_mem_separated hrest]

theorem newline_not_mem_bytesText (b : IntegerForm) (p : List Byte) : '\n' ∉ bytesText b p := by
  have hbytes : '\n' ∉ separated (p.map fun x => integerText b x.toNat) :=
    newline_not_mem_separated (List.forall_mem_map.2 fun x _ => (integerText_word b x.toNat).newline)
  simp [bytesText, hbytes]

theorem newline_not_mem_assignText (b : IntegerForm) {R : RegType} (a : Assign R) :
    '\n' ∉ assignText b a := by
  have hslot := (slotName_word a.slot).newline
  have hvalue := (assignOf_valueText b a).2.newline
  simp [assignText, hslot, hvalue]

theorem newline_not_mem_registerText (b : IntegerForm) (R : RegType) (as : List (Assign R)) :
    '\n' ∉ registerText b R as := by
  have hname := (regTypeName_word R).newline
  have hassigns : '\n' ∉ separated (as.map (assignText b)) :=
    newline_not_mem_separated (List.forall_mem_map.2 fun a _ => newline_not_mem_assignText b a)
  cases as with
  | nil => simpa [registerText] using hname
  | cons a as =>
    rw [List.map_cons] at hassigns
    simp [registerText, hname, hassigns]

theorem newline_not_mem_operandsText (b : IntegerForm) (c : Instr) :
    ∀ text ∈ operandsText b c, '\n' ∉ text := by
  cases c with
  | rRegister R => simpa [operandsText] using (regTypeName_word R).newline
  | wRegister R r => simpa [operandsText] using newline_not_mem_registerText b R r.assigns
  | rRxPayload n => simpa [operandsText] using (integerText_word b n).newline
  | wTxPayload p | wTxPayloadNoack p => simpa [operandsText] using newline_not_mem_bytesText b p
  | wAckPayload pipe p =>
    simpa [operandsText] using ⟨(integerText_word b pipe).newline, newline_not_mem_bytesText b p⟩
  | rRxPlWid | flushTx | flushRx | reuseTxPl | nop | activate => simp [operandsText]

theorem newline_not_mem_withOperands (k : CommandKind) {operands : Option (List Char)}
    (h : ∀ text ∈ operands, '\n' ∉ text) : '\n' ∉ withOperands k.mnemonic operands := by
  have hmnemonic := (mnemonic_word k).newline
  cases operands with
  | none => exact hmnemonic
  | some text => simp [withOperands, hmnemonic, h text rfl]

/-- A line written out is one line. -/
theorem newline_not_mem_lineText (b : IntegerForm) (l : Line) : '\n' ∉ lineText b l := by
  cases l with
  | command c => exact newline_not_mem_withOperands c.kind (newline_not_mem_operandsText b c)
  | writeRegister R as =>
    exact newline_not_mem_withOperands .wRegister fun text htext =>
      Option.some.inj htext ▸ newline_not_mem_registerText b R as

/-- A program written out reads as its lines. -/
theorem parseProgram_programText (b : IntegerForm) (lines : List Line) :
    parseProgram (programText b lines) = some (lines.map Line.asWritten) := by
  induction lines with
  | nil => rfl
  | cons l ls ih =>
    have htext : programText b (l :: ls) = lineText b l ++ '\n' :: programText b ls := by
      simp [programText]
    rw [htext, parseProgram_line (newline_not_mem_lineText b l) (parse_lineText b l), ih]
    rfl

/-- Settles O56: each line is read back as it is written, and the line that assigns all slots of a ready
value builds that value. -/
theorem assemblerReadsEveryProgram : Obligations.AssemblerReadsEveryProgram := by
  refine ⟨parseProgram_programText, fun l => ?_⟩
  cases l with
  | writeRegister R as => exact ⟨rfl, rfl, fun _ => rfl⟩
  | command c =>
    cases c with
    | wRegister R r =>
      refine ⟨?_, ?_, fun h => absurd rfl (h R r)⟩
      · rw [Line.asWritten, buildLine_writeRegister, r.withSlots_assigns]
        rfl
      · simpa [Line.asWritten, Line.slotsOnce, assigns_slots] using layout_slots_nodup R
    | rRegister | rRxPayload | rRxPlWid | wTxPayload | wAckPayload | wTxPayloadNoack | flushTx
    | flushRx | reuseTxPl | nop | activate => exact ⟨rfl, rfl, fun _ => rfl⟩

end Sys2Proof.Machine
